-- ==== Sys2Proof/Word.lean ====
section
/-! DEFINITION. The word types of the BCM scan-out engine (spec/00_scope.md R8: all values are unsigned). -/

namespace Sys2Proof

/-- A host command word or one word of a bitmask grid (spec/30_encoding.md R91, spec/20_memory.md R63). -/
abbrev Word := BitVec 32

/-- One colour channel, or one 8-bit operand field (spec/10_state.md R22, spec/30_encoding.md R93). -/
abbrev Byte := BitVec 8

/-- The column data word on the pins `D[5:0]` (spec/30_encoding.md R98). -/
abbrev ColData := BitVec 6

end Sys2Proof
end

