-- ==== Sys2Proof/Config.lean ====
section
/-! DEFINITION. The configuration record of spec/00_scope.md R6 and the model's one free value. The record is plain data
that State carries and no step changes (notes/assumptions/1.md); whether it is well formed is
Sys2Proof/Machine/ConfigCheck.lean. -/

namespace Sys2Proof

/-- spec/00_scope.md R6. Tables are lists of naturals, as there. -/
structure Config where
  /-- `BIT_DEPTH`. -/
  bitDepth : Nat
  /-- `BCM_TABLE`, one tick count a bit-plane (spec/10_state.md R37). -/
  bcmTable : List Nat
  /-- `BCM_TOL`. -/
  bcmTol : Nat
  /-- `ROW_SELECT_MAP`, one select code a row-pair (R38). -/
  rowSelectMap : List Nat
  /-- `SEL_W`. -/
  selW : Nat
  /-- `TIMER_W`. -/
  timerW : Nat
  /-- `TMR_INIT_RELOAD`. -/
  tmrInitReload : Nat
  /-- `CHANNEL_TEAR`. -/
  channelTear : Bool
  /-- `PIN_POLARITY`: one boolean a line, in the order `SEL[0..SEL_W-1]`, `BLANK`, `LAT`, `SCK`, `D[0..5]`; `true` says
  that the electrical level is the complement of the logical one (notes/assumptions/27.md). No rule reads it. -/
  pinPolarity : List Bool
  deriving DecidableEq, Repr

/-- The clauses of `WF_CONFIG`, as `F_CONFIG` records the one that fails (spec/00_scope.md R7, spec/60_exceptions.md R191);
which one where several fail is the model's choice (notes/assumptions/34.md). -/
inductive ConfigClause where
  /-- `1 ≤ BIT_DEPTH ≤ 8`. -/
  | bitDepth
  /-- `BCM_TABLE` has `BIT_DEPTH` entries (its type in R6). -/
  | tableLength
  /-- `1 ≤ BCM_TABLE[k] < 2^TIMER_W`. -/
  | tableRange
  /-- `BCM_TABLE[k] ≤ BCM_TABLE[k+1]`. -/
  | tableNonDecreasing
  /-- `|BCM_TABLE[k+1] - 2·BCM_TABLE[k]| ≤ BCM_TOL`. -/
  | tableDoubling
  /-- `ROW_SELECT_MAP` has 16 entries (its type in R6). -/
  | mapLength
  /-- `ROW_SELECT_MAP[p] < 2^SEL_W`. -/
  | mapRange
  /-- `1 ≤ TMR_INIT_RELOAD < 2^TIMER_W`. -/
  | initReload
  deriving DecidableEq, Repr

/-- The agents of spec/00_scope.md R10 that step after reset. -/
inductive Agent where
  | host
  | timer
  | engine
  deriving DecidableEq, Repr, Inhabited

/-- The default shape of the duration table: `BCM_TABLE[k] = BCM_BASE × 2^k` (spec/00_scope.md R6). -/
def Config.defaultTable (bcmBase bitDepth : Nat) : List Nat :=
  (List.range bitDepth).map fun k => bcmBase * 2 ^ k

/-- A configuration with every defaulted parameter at the spec's default; `BCM_BASE`, `ROW_SELECT_MAP` and `PIN_POLARITY`
have none and are arguments (spec/00_scope.md R6). -/
def Config.withDefaults (bcmBase : Nat) (rowSelectMap : List Nat) (pinPolarity : List Bool) : Config where
  bitDepth := 8
  bcmTable := Config.defaultTable bcmBase 8
  bcmTol := 0
  rowSelectMap := rowSelectMap
  selW := 4
  timerW := 32
  tmrInitReload := bcmBase
  channelTear := false
  pinPolarity := pinPolarity

/-- `CFG_EX`, the spec's example configuration (spec/41_scanout_engine.md, opening). It is an example only: a model that
runs from reset must hold some configuration, and no statement rests on this one (notes/assumptions/1.md). -/
def Config.cfgEx : Config :=
  Config.withDefaults 16 (List.range 16) (List.replicate 13 false)

/-- FREE VALUE: which agent moves at the `n`-th choice nobody made (spec/00_scope.md R10: "Any enabled step may be taken
next; the choice among them is not fixed by any source"). It has no body (notes/assumptions/2.md). -/
opaque Config.freeAgent : Nat → Agent

end Sys2Proof
end

