-- ==== Sys2Proof/Machine/ConfigCheck.lean ====
section
/-! DEFINITION. `WF_CONFIG` (spec/00_scope.md R7) and the reads of the two constant tables (spec/10_state.md R37, R38). -/

namespace Sys2Proof

/-- `BCM_TABLE[k]`, none outside the table. -/
def Config.bcm (c : Config) (k : Nat) : Option Nat := c.bcmTable[k]?

/-- `ROW_SELECT_MAP[p]`, none outside the map. -/
def Config.rowSelect (c : Config) (p : Nat) : Option Nat := c.rowSelectMap[p]?

def Config.tableInRange (c : Config) : Bool :=
  c.bcmTable.all fun v => decide (1 ≤ v) && decide (v < 2 ^ c.timerW)

/-- Neighbouring table entries, each with the one above it. -/
def Config.tablePairs (c : Config) : List (Nat × Nat) := c.bcmTable.zip c.bcmTable.tail

def Config.tableNonDecreasing (c : Config) : Bool := c.tablePairs.all fun p => decide (p.1 ≤ p.2)

/-- `|b - 2a| ≤ tol` over the naturals, for every entry `a` and the entry `b` above it. -/
def Config.tableDoubles (c : Config) : Bool :=
  c.tablePairs.all fun p => decide (p.2 ≤ 2 * p.1 + c.bcmTol) && decide (2 * p.1 ≤ p.2 + c.bcmTol)

def Config.mapInRange (c : Config) : Bool := c.rowSelectMap.all fun v => decide (v < 2 ^ c.selW)

/-- The first clause of `WF_CONFIG` that fails, none when the configuration is well formed (R7). The two length clauses
are the tables' types in R6 (notes/assumptions/23.md). DESIGN CHOICE, safe: where several clauses fail, the one named is the
first in the order here, R7's with each length before the clauses that read that table; the spec says only "the failing
clause" (spec/60_exceptions.md R191; notes/assumptions/34.md). -/
def Config.failing (c : Config) : Option ConfigClause :=
  if ¬ (1 ≤ c.bitDepth ∧ c.bitDepth ≤ 8) then some .bitDepth
  else if c.bcmTable.length ≠ c.bitDepth then some .tableLength
  else if ¬ c.tableInRange then some .tableRange
  else if ¬ c.tableNonDecreasing then some .tableNonDecreasing
  else if ¬ c.tableDoubles then some .tableDoubling
  else if c.rowSelectMap.length ≠ 16 then some .mapLength
  else if ¬ c.mapInRange then some .mapRange
  else if ¬ (1 ≤ c.tmrInitReload ∧ c.tmrInitReload < 2 ^ c.timerW) then some .initReload
  else none

/-- `WF_CONFIG`. -/
abbrev Config.Wf (c : Config) : Prop := c.failing = none

end Sys2Proof
end

