-- ==== Sys2Proof/Syntax.lean ====
section
/-! DEFINITION. The operations of the block: the nine host commands and the nine sequencer operations of
spec/opcode_table.json, one constructor a row, with the operands of the call level (spec/30_encoding.md R90). -/

namespace Sys2Proof

/-- The three channels of a pixel, in the order of spec/00_scope.md R5. -/
inductive Channel where
  | red
  | green
  | blue
  deriving DecidableEq, Repr

/-- A Pixel Color: three independent 8-bit intensities (spec/10_state.md R22). -/
structure Color where
  r : Byte
  g : Byte
  b : Byte
  deriving DecidableEq, Repr

inductive Instr where
  /-- `SetColor(r, g, b)`, spec/40_drawing_surface.md R121. -/
  | setColor (r g b : Byte)
  /-- `Clear()`, R122. -/
  | clear
  /-- `FillSolid()`, R123. -/
  | fillSolid
  /-- `DrawPixel(row, col)`, R124. -/
  | drawPixel (row col : Byte)
  /-- `DrawRowRun(row, startCol, length)`, R125. -/
  | drawRowRun (row startCol length : Byte)
  /-- `DrawColumnRun(col, startRow, length)`, R126. -/
  | drawColRun (col startRow length : Byte)
  /-- `DrawMasked(bitGrid)`, R127: the grid as its 32 words `G[0], …, G[31]`. -/
  | drawMasked (grid : List Word)
  /-- `InitDisplay()`, spec/42_system_ops.md R180. -/
  | initDisplay
  /-- `SchedEnable()`, R181. -/
  | schedEnable
  /-- The operation taken from `IDLE`, spec/41_scanout_engine.md R151. -/
  | entry
  /-- Step 1, R152. -/
  | tstop
  /-- Step 2, R153. -/
  | tack
  /-- Step 3, R154. -/
  | rowsel
  /-- Step 4, executed once a column, R155. -/
  | shift
  /-- Step 5, R157. -/
  | latch
  /-- Step 6, R158. -/
  | unblank
  /-- Step 7, R159. -/
  | treload
  /-- Step 8, R160. -/
  | advance
  deriving DecidableEq, Repr

end Sys2Proof
end

