-- ==== Sys2Proof/WellFormed.lean ====
section
/-! DEFINITION. Which terms of `Instr` are instructions. Operand fields are 8-bit by their type, and every value of
one is expressible (an out-of-range coordinate decodes and its command then faults, spec/30_encoding.md R92, R96);
what a type does not say is that a bitmask grid has exactly 32 words (R94). -/

namespace Sys2Proof

/-- spec/30_encoding.md R94: "followed by exactly 32 payload words". -/
def Instr.wellFormed : Instr → Bool
  | .setColor _ _ _ => true
  | .clear => true
  | .fillSolid => true
  | .drawPixel _ _ => true
  | .drawRowRun _ _ _ => true
  | .drawColRun _ _ _ => true
  | .drawMasked grid => grid.length == 32
  | .initDisplay => true
  | .schedEnable => true
  | .entry => true
  | .tstop => true
  | .tack => true
  | .rowsel => true
  | .shift => true
  | .latch => true
  | .unblank => true
  | .treload => true
  | .advance => true

/-- The agent column of the opcode table: `true` for the nine host commands. -/
def Instr.isHost : Instr → Bool
  | .setColor _ _ _ => true
  | .clear => true
  | .fillSolid => true
  | .drawPixel _ _ => true
  | .drawRowRun _ _ _ => true
  | .drawColRun _ _ _ => true
  | .drawMasked _ => true
  | .initDisplay => true
  | .schedEnable => true
  | .entry => false
  | .tstop => false
  | .tack => false
  | .rowsel => false
  | .shift => false
  | .latch => false
  | .unblank => false
  | .treload => false
  | .advance => false

end Sys2Proof
end

