-- ==== Sys2Proof/Decode.lean ====
section
/-! DEFINITION. From bits to operations and back: the host command words (spec/30_encoding.md R91 to R96) and the phase
codes of the sequencer (R97). The two are different streams: a command word is presented on the host port, a phase code is
the value of `PHASE`. -/

namespace Sys2Proof

/-- spec/30_encoding.md R97, column 1. -/
abbrev Phase.idle : BitVec 4 := 0
abbrev Phase.tstop : BitVec 4 := 1
abbrev Phase.tack : BitVec 4 := 2
abbrev Phase.rowsel : BitVec 4 := 3
abbrev Phase.shift : BitVec 4 := 4
abbrev Phase.latch : BitVec 4 := 5
abbrev Phase.unblank : BitVec 4 := 6
abbrev Phase.treload : BitVec 4 := 7
abbrev Phase.advance : BitVec 4 := 8

/-- The nine rows of the opcode map of the host port. -/
inductive HostOp where
  | setColor
  | clear
  | fillSolid
  | drawPixel
  | drawRowRun
  | drawColRun
  | drawMasked
  | initDisplay
  | schedEnable
  deriving DecidableEq, Repr

/-- One row of the opcode map: "a word `W` selects the row exactly when `W & mask = match`" (R95). -/
structure OpRow where
  code : Word
  mask : Word
  op : HostOp
  deriving DecidableEq, Repr

/-- spec/30_encoding.md R95. -/
def hostRows : List OpRow :=
  [ ⟨0x10000000, 0xFF000000, .setColor⟩,
    ⟨0x20000000, 0xFFFFFFFF, .clear⟩,
    ⟨0x30000000, 0xFFFFFFFF, .fillSolid⟩,
    ⟨0x40000000, 0xFFFF0000, .drawPixel⟩,
    ⟨0x50000000, 0xFF000000, .drawRowRun⟩,
    ⟨0x60000000, 0xFF000000, .drawColRun⟩,
    ⟨0x70000000, 0xFFFFFFFF, .drawMasked⟩,
    ⟨0x80000000, 0xFFFFFFFF, .initDisplay⟩,
    ⟨0x90000000, 0xFFFFFFFF, .schedEnable⟩ ]

def OpRow.selects (r : OpRow) (w : Word) : Bool := w &&& r.mask == r.code

/-- The row a word selects, if it selects one. -/
def hostOpOf (w : Word) : Option HostOp :=
  (hostRows.find? fun r => r.selects w).map OpRow.op

/-- An operand field: eight bits from bit `lo`, unsigned and unscaled (R93). -/
def operand (w : Word) (lo : Nat) : Byte := w.extractLsb' lo 8

/-- What the words at the host port are, read from the front. -/
inductive HostDecode where
  /-- A whole command, and the words behind it. -/
  | command (i : Instr) (rest : List Word)
  /-- The host has not finished presenting a command: no word yet, or a `DRAWMASKED` whose payload is shorter than 32
  words (spec/93_implementation_defined.md U12). -/
  | incomplete
  /-- The front word matches no row of R95: a reserved encoding (R96). -/
  | reserved (w : Word)
  deriving DecidableEq, Repr

/-- spec/30_encoding.md R92 to R96: total on any words. -/
def decodeHost : List Word → HostDecode
  | [] => .incomplete
  | w :: rest =>
    match hostOpOf w with
    | none => .reserved w
    | some .setColor => .command (.setColor (operand w 16) (operand w 8) (operand w 0)) rest
    | some .clear => .command .clear rest
    | some .fillSolid => .command .fillSolid rest
    | some .drawPixel => .command (.drawPixel (operand w 8) (operand w 0)) rest
    | some .drawRowRun => .command (.drawRowRun (operand w 16) (operand w 8) (operand w 0)) rest
    | some .drawColRun => .command (.drawColRun (operand w 16) (operand w 8) (operand w 0)) rest
    | some .drawMasked =>
      if rest.length < 32 then .incomplete else .command (.drawMasked (rest.take 32)) (rest.drop 32)
    | some .initDisplay => .command .initDisplay rest
    | some .schedEnable => .command .schedEnable rest

/-- spec/30_encoding.md R97: the operation taken in each phase. -/
def phaseRows : List (BitVec 4 × Instr) :=
  [ (Phase.idle, .entry), (Phase.tstop, .tstop), (Phase.tack, .tack), (Phase.rowsel, .rowsel), (Phase.shift, .shift),
    (Phase.latch, .latch), (Phase.unblank, .unblank), (Phase.treload, .treload), (Phase.advance, .advance) ]

/-- The operation a value of `PHASE` stands for; codes 9 to 15 stand for none (R97). -/
def decodePhase (c : BitVec 4) : Option Instr :=
  (phaseRows.find? fun r => r.1 == c).map Prod.snd

/-- How many words a command has: "A decoder tells the length of a command from `OP` alone" (R94). -/
def commandLength (w : Word) : Nat := if w.extractLsb' 28 4 = 0x7#4 then 33 else 1

/-- The encoding of an operation, in the stream it belongs to. -/
inductive Code where
  | words (ws : List Word)
  | phase (c : BitVec 4)
  deriving DecidableEq, Repr

/-- Format C and L words: `OP`, four zero bits, three operands (R92). -/
def word3 (op : BitVec 4) (x y z : Byte) : Word := (op ++ 0#4) ++ (x ++ (y ++ z))

/-- Format P words: `OP`, twelve zero bits, two operands (R92). -/
def word2 (op : BitVec 4) (y z : Byte) : Word := (op ++ 0#12) ++ (y ++ z)

/-- Format Z words: `OP` and 28 zero bits (R92). -/
def word0 (op : BitVec 4) : Word := op ++ 0#28

/-- spec/30_encoding.md R92, R94, R95, R97. -/
def encode : Instr → Code
  | .setColor r g b => .words [word3 0x1 r g b]
  | .clear => .words [word0 0x2]
  | .fillSolid => .words [word0 0x3]
  | .drawPixel row col => .words [word2 0x4 row col]
  | .drawRowRun row startCol length => .words [word3 0x5 row startCol length]
  | .drawColRun col startRow length => .words [word3 0x6 col startRow length]
  | .drawMasked grid => .words (word0 0x7 :: grid)
  | .initDisplay => .words [word0 0x8]
  | .schedEnable => .words [word0 0x9]
  | .entry => .phase Phase.idle
  | .tstop => .phase Phase.tstop
  | .tack => .phase Phase.tack
  | .rowsel => .phase Phase.rowsel
  | .shift => .phase Phase.shift
  | .latch => .phase Phase.latch
  | .unblank => .phase Phase.unblank
  | .treload => .phase Phase.treload
  | .advance => .phase Phase.advance

/-- The operation an encoding is, when it is exactly one. -/
def decode : Code → Option Instr
  | .words ws =>
    match decodeHost ws with
    | .command i [] => some i
    | .command _ (_ :: _) => none
    | .incomplete => none
    | .reserved _ => none
  | .phase c => decodePhase c

/-- The command whose words, laid end to end with the first word lowest, are the number `w`; every bit above is 0. -/
def tableWords (w : Nat) : List Word :=
  (List.range (commandLength (BitVec.ofNat 32 w))).map fun k => BitVec.ofNat 32 (w >>> (32 * k))

/-- The host's reading of one row of spec/opcode_table.json: a row of at most 8 bits is a phase code, any other a command. -/
def decodeTableWord (nbits w : Nat) : Option Instr :=
  if nbits ≤ 8 then
    if w < 16 then decodePhase (BitVec.ofNat 4 w) else none
  else decode (.words (tableWords w))

end Sys2Proof
end

