-- ==== Sys2Proof/Machine/State.lean ====
section
/-! DEFINITION. The state of the block, the reasons a step can stop, and the state after reset
(spec/10_state.md R20, R41, R44, spec/60_exceptions.md R191, spec/70_reset_and_hazards.md R230). -/

namespace Sys2Proof.Machine

/-- The framebuffer as (address, byte) pairs: one byte a channel, at address `3 × (row × 32 + col) + channel`
(notes/assumptions/8.md). Its canonical form is `Memory.wf` of Sys2Proof/Machine/Operands.lean. -/
abbrev Memory := List Host.Cell

/-- The five kinds of pin event (spec/30_encoding.md R99). -/
inductive PinEvent where
  | blank (b : Bool)
  | sel (v : Nat)
  | data (w : ColData)
  | sck
  | lat
  deriving DecidableEq, Repr

/-- What the output trace is made of: pin events interleaved with `Tick` marks (spec/00_scope.md R11). -/
inductive TraceMark where
  | pin (e : PinEvent)
  | tick
  deriving DecidableEq, Repr

/-- `H_CMD`: the command in flight, and the colour its cells get, fixed at issue (spec/10_state.md R39,
spec/40_drawing_surface.md R120). -/
structure InFlight where
  cmd : Instr
  color : Color
  deriving DecidableEq, Repr

/-- The model-level faults of spec/60_exceptions.md R191. The hardware raises none of them. Each is SAFE: the model stops
where the hardware would go on in a way no source defines. -/
inductive Fault where
  /-- `F_COORD(row, col)`: raised by `DRAWPIXEL`, `DRAWROWRUN`, `DRAWCOLRUN` at issue, and by a cell write outside the grid. -/
  | coord (row col : Nat)
  /-- `F_RUN(start, len)`: raised by `DRAWROWRUN`, `DRAWCOLRUN` at issue. -/
  | run (start len : Nat)
  /-- `F_NOINIT`: raised by the seven drawing commands and `SCHEDENABLE` while `INIT_DONE = 0`. -/
  | noInit (cmd : Instr)
  /-- `F_REINIT`: raised by `INITDISPLAY` while `INIT_DONE = 1`. -/
  | reInit
  /-- `F_UNSET_COLOR`: raised by a command that would write a cell from `DRAW_COLOR` while `DC_VALID = 0`. -/
  | unsetColor (cmd : Instr)
  /-- `F_RSVD`: raised by the command decoder on a word that matches no row. -/
  | rsvd (w : Word)
  /-- `F_CONFIG`: raised before the first step when `WF_CONFIG` does not hold, with the first clause that fails in the
  model's order (notes/assumptions/34.md). -/
  | config (clause : ConfigClause)
  /-- `F_BUSY`: raised when a command is executed while another is in flight or `PHASE ≠ IDLE`. -/
  | busy (cmd : Instr)
  deriving DecidableEq, Repr

/-- The model's own refusals. Each is SAFE: it stops the model and gives no state. -/
inductive Refusal where
  /-- Raised by `exec` for an instruction that has no meaning yet. -/
  | notModelled (mnemonic : String)
  /-- Raised by a sequencer operation executed in a state where its rule does not enable it (spec/41_scanout_engine.md,
  "Enabled when"; notes/assumptions/13.md). No step of the machine meets it. -/
  | notEnabled (op : Instr)
  /-- Raised by an engine step with `PHASE ≥ 9`: "treats a state with `PHASE ≥ 9` as unreachable and refuses it"
  (spec/30_encoding.md R97). -/
  | phaseUnreachable (code : BitVec 4)
  /-- Raised by `ROWSEL` and `TRELOAD` for an index outside the constant table, which no run of a well-formed
  configuration reaches (spec/10_state.md R24, notes/assumptions/14.md). -/
  | tableIndex (index : Nat)
  /-- Raised by a `HostCell` step whose `H_IDX` is outside the cell list, which no run reaches (notes/assumptions/14.md). -/
  | hostProgress (index : Nat)
  /-- Raised by a host step with no complete command at the port; the machine's step never takes one (notes/assumptions/12.md). -/
  | noCommand
  deriving DecidableEq, Repr

/-- The complete state, by the spec's names (spec/10_state.md R20, R39, R41). -/
structure State where
  /-- The constant tables and the other parameters. -/
  cfg : Config
  /-- `FB`. -/
  fb : Memory
  /-- `ROW_PAIR`. -/
  rowPair : BitVec 4
  /-- `BIT_PLANE`. -/
  bitPlane : BitVec 3
  /-- `PHASE`. -/
  phase : BitVec 4
  /-- `COLCNT`. -/
  colCnt : BitVec 5
  /-- `DRAW_COLOR`. -/
  drawColor : Color
  /-- `DC_VALID`, bookkeeping of the model (R27). -/
  dcValid : Bool
  /-- `INIT_DONE`. -/
  initDone : Bool
  /-- `T_EN`. -/
  tEn : Bool
  /-- `T_RELOAD`. -/
  tReload : Nat
  /-- `T_COUNT`. -/
  tCount : Nat
  /-- `T_PEND`. -/
  tPend : Bool
  /-- `SEL`, an opaque code. -/
  sel : Nat
  /-- `BLANK`: 1 is dark. -/
  blank : Bool
  /-- `LAT`. -/
  lat : Bool
  /-- `SCK`. -/
  sck : Bool
  /-- `D`. -/
  d : ColData
  /-- `H_CMD`. -/
  hCmd : Option InFlight
  /-- `H_IDX`: cell writes of the command already done. -/
  hIdx : Nat
  /-- The channel the current cell write has reached; red between cell writes (spec/20_memory.md R65). -/
  hChan : Channel
  /-- `P_SR` of the panel, oldest word first. -/
  pSr : List ColData
  /-- `P_LATCH` of the panel, by column. -/
  pLatch : List ColData
  /-- The output trace, oldest first. -/
  trace : List TraceMark
  /-- The host command port: words presented and not yet issued, in order. -/
  port : List Word
  /-- The MODEL's own: the agents chosen to move next. -/
  sched : List Agent
  /-- The MODEL's own: how many choices were left to `Config.freeAgent`. -/
  draws : Nat
  deriving DecidableEq, Repr

/-- `Reset` under a configuration (spec/70_reset_and_hazards.md R230). What R230 leaves unspecified is zero here:
notes/assumptions/4.md to 7.md. -/
def State.resetWith (cfg : Config) : State where
  cfg := cfg
  fb := []
  rowPair := 0
  bitPlane := 0
  phase := Phase.idle
  colCnt := 0
  drawColor := ⟨0, 0, 0⟩
  dcValid := false
  initDone := false
  tEn := false
  tReload := 0
  tCount := 0
  tPend := false
  sel := 0
  blank := false
  lat := false
  sck := false
  d := 0
  hCmd := none
  hIdx := 0
  hChan := .red
  pSr := List.replicate 32 0
  pLatch := List.replicate 32 0
  trace := []
  port := []
  sched := []
  draws := 0

/-- The machine right after reset, under the spec's example configuration (notes/assumptions/1.md). -/
def State.reset : State := State.resetWith Config.cfgEx

end Sys2Proof.Machine
end

