-- ==== Sys2Proof/Machine/Operands.lean ====
section
/-! DEFINITION. Everything an operation reads: framebuffer cells and channels, the bitmask grid, the cell list of a drawing
command, and the multiplexer's column word. -/

namespace Sys2Proof.Machine

/-- Red, green, blue are channels 0, 1, 2 (spec/00_scope.md R5). -/
def channelIndex : Channel → Nat
  | .red => 0
  | .green => 1
  | .blue => 2

/-- One channel of a colour. -/
def channelOf (c : Color) : Channel → Byte
  | .red => c.r
  | .green => c.g
  | .blue => c.b

/-- The zero colour (spec/10_state.md R22). -/
def zeroColor : Color := ⟨0, 0, 0⟩

/-- What an address nothing has written reads as: the framebuffer is zero-initialized (spec/10_state.md R21). -/
def Memory.unlisted : Byte := 0

/-- How many addresses the framebuffer has: 1024 cells of three channels. -/
def Memory.size : Nat := 3072

/-- One byte of the framebuffer. -/
def Memory.read : Memory → Nat → Byte
  | [], _ => Memory.unlisted
  | (k, v) :: m, a => if a = k then v else Memory.read m a

/-- Store one byte, keeping the canonical form. -/
def Memory.write : Memory → Nat → Byte → Memory
  | [], a, v => if v = Memory.unlisted then [] else [(a, v)]
  | (k, w) :: m, a, v =>
    if a < k then (if v = Memory.unlisted then (k, w) :: m else (a, v) :: (k, w) :: m)
    else if a = k then (if v = Memory.unlisted then m else (a, v) :: m)
    else (k, w) :: Memory.write m a v

/-- The canonical form: addresses strictly rising and inside the framebuffer, no entry equal to the unlisted byte. -/
abbrev Memory.wf (m : Memory) : Prop :=
  m.Pairwise (fun x y => x.1 < y.1) ∧ ∀ c ∈ m, c.2 ≠ Memory.unlisted ∧ c.1 < Memory.size

/-- The address of one channel of cell (`row`, `col`): the linear cell address of spec/20_memory.md R61, three channels a
cell (notes/assumptions/8.md). -/
def channelAddr (row col : Nat) (ch : Channel) : Nat := 3 * (row * 32 + col) + channelIndex ch

/-- `FB[row][col]`. -/
def readCell (m : Memory) (row col : Nat) : Color :=
  ⟨m.read (channelAddr row col .red), m.read (channelAddr row col .green), m.read (channelAddr row col .blue)⟩

/-- Bit (`row`, `col`) of a bitmask grid: the `col`-th bit of the `row`-th word, from the least significant
(spec/20_memory.md R63). -/
def maskBit (grid : List Word) (row col : Nat) : Bool := (grid.getD row 0).getLsbD col

/-- All 1024 cells in row-major order (spec/40_drawing_surface.md R120, "Order of the cell list"). -/
def allCells : List (Nat × Nat) := (List.range 1024).map fun a => (a / 32, a % 32)

/-- The coordinates of a command's cell list, in order (spec/40_drawing_surface.md R120 to R127). -/
def cellCoords : Instr → List (Nat × Nat)
  | .setColor _ _ _ => []
  | .clear => allCells
  | .fillSolid => allCells
  | .drawPixel row col => [(row.toNat, col.toNat)]
  | .drawRowRun row startCol length => (List.range length.toNat).map fun i => (row.toNat, startCol.toNat + i)
  | .drawColRun col startRow length => (List.range length.toNat).map fun i => (startRow.toNat + i, col.toNat)
  | .drawMasked grid => allCells.filter fun c => maskBit grid c.1 c.2
  | .initDisplay => []
  | .schedEnable => []
  | .entry => []
  | .tstop => []
  | .tack => []
  | .rowsel => []
  | .shift => []
  | .latch => []
  | .unblank => []
  | .treload => []
  | .advance => []

/-- `bit(v, k)` as one bit (spec/00_scope.md R8). -/
def bitOf (v : Byte) (k : Nat) : BitVec 1 := BitVec.ofBool (v.getLsbD k)

/-- The multiplexer function on the two cells of a column: lower blue, green, red, then upper blue, green, red, the last
in bit 0 (spec/41_scanout_engine.md R156, spec/30_encoding.md R98). -/
def colWordOf (up lo : Color) (k : Nat) : ColData :=
  bitOf lo.b k ++ (bitOf lo.g k ++ (bitOf lo.r k ++ (bitOf up.b k ++ (bitOf up.g k ++ bitOf up.r k))))

/-- `ColWord(FB, p, k, c)` (spec/41_scanout_engine.md R156). -/
def colWord (m : Memory) (p k c : Nat) : ColData := colWordOf (readCell m p c) (readCell m (p + 16) c) k

end Sys2Proof.Machine
end

