-- ==== Sys2Proof/Machine/Flags.lean ====
section
/-! DEFINITION. The conditions the block tests. It has no arithmetic condition codes; "The two conditions the sequencer tests
are `COLCNT = 31` ... and `BIT_PLANE = BIT_DEPTH - 1`" (spec/10_state.md R28), and the timer tests its count (spec/60_exceptions.md R202). -/

namespace Sys2Proof.Machine

/-- `COLCNT = 31` (spec/41_scanout_engine.md R155). -/
def lastColumn (s : State) : Bool := s.colCnt == 31

/-- `BIT_PLANE = BIT_DEPTH - 1` (R160), without the natural subtraction. -/
def lastPlane (s : State) : Bool := s.bitPlane.toNat + 1 == s.cfg.bitDepth

/-- This tick completes the count: `T_EN = 1` and `T_COUNT ≤ 1` (spec/60_exceptions.md R202). -/
def expires (s : State) : Bool := s.tEn && decide (s.tCount ≤ 1)

/-- `ENTRY` is enabled (spec/41_scanout_engine.md R151). -/
def entryEnabled (s : State) : Bool := s.phase == Phase.idle && s.tPend && s.initDone

/-- An engine step is enabled (spec/00_scope.md R10). -/
def engineEnabled (s : State) : Bool := s.phase != Phase.idle || entryEnabled s

/-- A complete command, or a reserved word, stands at the port. -/
def portReady (s : State) : Bool := decodeHost s.port != .incomplete

/-- A host step is enabled: `PHASE = IDLE`, and there is something to do (spec/00_scope.md R10, spec/40_drawing_surface.md R120). -/
def hostEnabled (s : State) : Bool := s.phase == Phase.idle && (s.hCmd.isSome || portReady s)

end Sys2Proof.Machine
end

