-- ==== Sys2Proof/Machine/Ops.lean ====
section
/-! DEFINITION. The shared operations: framebuffer writes, pin events and the panel behind them, the timer's tick, taking the
display interrupt and returning from it, the checks of a command's issue, and the `HostCell` step. -/

namespace Sys2Proof.Machine

/-- The three outcomes of an operation of this machine. -/
abbrev Out := Host.Outcome State Fault Refusal

/-! ## Framebuffer writes (spec/20_memory.md R65) -/

/-- One channel of `FB[row][col]`, the unit of a torn write. -/
def writeChannel (m : Memory) (row col : Nat) (ch : Channel) (v : Byte) : Memory := m.write (channelAddr row col ch) v

/-- `FB[row][col] <- c`: all three channels of one cell. -/
def writeCell (m : Memory) (row col : Nat) (c : Color) : Memory :=
  writeChannel (writeChannel (writeChannel m row col .red c.r) row col .green c.g) row col .blue c.b

/-! ## Pin events and the panel sink (spec/30_encoding.md R99, spec/60_exceptions.md R206, R207) -/

/-- `emit E`: the pin register changes as R99 says, the event joins the trace, and the panel shifts on `Sck` and latches on
`Lat`. A pulse leaves its line at 0. -/
def emit (e : PinEvent) (s : State) : State :=
  match e with
  | .blank b => { s with blank := b, trace := s.trace ++ [.pin (.blank b)] }
  | .sel v => { s with sel := v, trace := s.trace ++ [.pin (.sel v)] }
  | .data w => { s with d := w, trace := s.trace ++ [.pin (.data w)] }
  | .sck => { s with sck := false, pSr := s.pSr.tail ++ [s.d], trace := s.trace ++ [.pin .sck] }
  | .lat => { s with lat := false, pLatch := s.pSr, trace := s.trace ++ [.pin .lat] }

/-! ## The timer (spec/60_exceptions.md R202) -/

/-- `Tick`. -/
def tick (s : State) : State :=
  { s with
    tPend := expires s || s.tPend
    tCount := if expires s then s.tReload else if s.tEn then s.tCount - 1 else s.tCount
    trace := s.trace ++ [.tick] }

/-- A new period: reload and count are written together with one value (spec/60_exceptions.md R203). -/
def loadTimer (v : Nat) (s : State) : State := { s with tReload := v, tCount := v }

/-! ## The display interrupt (spec/60_exceptions.md R196, R198) -/

/-- Taking it: nothing is saved, control goes to the fixed place `TSTOP`. -/
def takeDisplayInterrupt (s : State) : State := { s with phase := Phase.tstop }

/-- Returning from it: nothing is restored, the host context resumes. -/
def returnToHost (s : State) : State := { s with phase := Phase.idle }

/-! ## The sequencer -/

/-- A phase operation runs only in its phase ("Enabled when `PHASE = …`", spec/41_scanout_engine.md R152 to R160). -/
def inPhase (p : BitVec 4) (op : Instr) (s : State) (k : Out) : Out :=
  if s.phase = p then k else .refused (.notEnabled op)

/-- An entry of a constant table, refused outside the table. -/
def tableRead (entry : Option Nat) (index : Nat) (k : Nat → Out) : Out :=
  match entry with
  | some v => k v
  | none => .refused (.tableIndex index)

/-- The cursor's step (R160). -/
def advanceCursor (s : State) : State :=
  { s with
    bitPlane := if lastPlane s then 0 else s.bitPlane + 1
    rowPair := if lastPlane s then s.rowPair + 1 else s.rowPair }

/-! ## Issuing a command (spec/40_drawing_surface.md R120, order of checks spec/60_exceptions.md R191) -/

/-- `F_BUSY`: a command is issued only in the host context with no other in flight. -/
def whenFree (cmd : Instr) (s : State) (k : Out) : Out :=
  if s.phase = Phase.idle ∧ s.hCmd = none then k else .fault (.busy cmd)

/-- `F_BUSY`, then `F_NOINIT`. -/
def afterInit (cmd : Instr) (s : State) (k : Out) : Out :=
  whenFree cmd s (if s.initDone then k else .fault (.noInit cmd))

/-- `H_CMD <- cmd`, `H_IDX <- 0`; the colour of the cell list is fixed here. -/
def startCommand (cmd : Instr) (color : Color) (s : State) : State :=
  { s with hCmd := some ⟨cmd, color⟩, hIdx := 0, hChan := .red }

/-- The last check and the start of a command that takes its colour from `DRAW_COLOR`: an empty cell list completes here and
reads no colour (spec/90_conflicts.md C11), any other needs `DC_VALID = 1`. -/
def startColored (cmd : Instr) (s : State) : Out :=
  if cellCoords cmd = [] then .next s
  else if s.dcValid then .next (startCommand cmd s.drawColor s)
  else .fault (.unsetColor cmd)

/-- The bounds of a run: the fixed coordinate, then `start + len ≤ 32` over the naturals (R125, R126). -/
def runInBounds (fixed start len : Nat) (row col : Nat) (k : Out) : Out :=
  if 32 ≤ fixed then .fault (.coord row col)
  else if 32 < start + len then .fault (.run start len)
  else k

/-! ## `HostCell` (spec/40_drawing_surface.md R120, "Cell steps") -/

/-- The cell is written: `H_IDX` counts it, and the command is complete when the list is at its end. -/
def finishCell (c : InFlight) (s : State) : State :=
  { s with
    hIdx := s.hIdx + 1
    hChan := .red
    hCmd := if s.hIdx + 1 < (cellCoords c.cmd).length then some c else none }

/-- The write of one cell, or with `CHANNEL_TEAR` of its next channel: `.R`, then `.G`, then `.B` (spec/20_memory.md R65). -/
def cellStep (c : InFlight) (row col : Nat) (s : State) : State :=
  if s.cfg.channelTear then
    match s.hChan with
    | .red => { s with fb := writeChannel s.fb row col .red c.color.r, hChan := .green }
    | .green => { s with fb := writeChannel s.fb row col .green c.color.g, hChan := .blue }
    | .blue => finishCell c { s with fb := writeChannel s.fb row col .blue c.color.b }
  else finishCell c { s with fb := writeCell s.fb row col c.color }

/-- `HostCell`. A progress index outside the cell list and a cell outside the grid are states no run reaches
(notes/assumptions/14.md). -/
def hostCell (c : InFlight) (s : State) : Out :=
  match (cellCoords c.cmd)[s.hIdx]? with
  | none => .refused (.hostProgress s.hIdx)
  | some (row, col) => if row < 32 ∧ col < 32 then .next (cellStep c row col s) else .fault (.coord row col)

end Sys2Proof.Machine
end

