-- ==== Sys2Proof/Machine/Drawing.lean ====
section
/-! DEFINITION. The seven drawing commands (spec/40_drawing_surface.md). A command's meaning is its issue; its cells are
written by the `HostCell` steps that follow (R120). -/

namespace Sys2Proof.Machine

/-- R121. -/
def execSetColor (r g b : Byte) (s : State) : Out :=
  afterInit (.setColor r g b) s (.next { s with drawColor := ⟨r, g, b⟩, dcValid := true })

/-- R122: it needs no draw colour. -/
def execClear (s : State) : Out :=
  afterInit .clear s (.next (startCommand .clear zeroColor s))

/-- R123. -/
def execFillSolid (s : State) : Out :=
  afterInit .fillSolid s (startColored .fillSolid s)

/-- R124. -/
def execDrawPixel (row col : Byte) (s : State) : Out :=
  afterInit (.drawPixel row col) s
    (if 32 ≤ row.toNat ∨ 32 ≤ col.toNat then .fault (.coord row.toNat col.toNat) else startColored (.drawPixel row col) s)

/-- R125. -/
def execDrawRowRun (row startCol length : Byte) (s : State) : Out :=
  afterInit (.drawRowRun row startCol length) s
    (runInBounds row.toNat startCol.toNat length.toNat row.toNat startCol.toNat
      (startColored (.drawRowRun row startCol length) s))

/-- R126: the fixed coordinate is the column. -/
def execDrawColRun (col startRow length : Byte) (s : State) : Out :=
  afterInit (.drawColRun col startRow length) s
    (runInBounds col.toNat startRow.toNat length.toNat startRow.toNat col.toNat
      (startColored (.drawColRun col startRow length) s))

/-- R127. -/
def execDrawMasked (grid : List Word) (s : State) : Out :=
  afterInit (.drawMasked grid) s (startColored (.drawMasked grid) s)

end Sys2Proof.Machine
end

