-- ==== Sys2Proof/Machine/ScanOut.lean ====
section
/-! DEFINITION. The nine operations of the sequencer (spec/41_scanout_engine.md R151 to R160). -/

namespace Sys2Proof.Machine

/-- R151. -/
def execEntry (s : State) : Out :=
  if entryEnabled s then .next (takeDisplayInterrupt s) else .refused (.notEnabled .entry)

/-- R152. -/
def execTstop (s : State) : Out :=
  inPhase Phase.tstop .tstop s (.next { s with tEn := false, phase := Phase.tack })

/-- R153. -/
def execTack (s : State) : Out :=
  inPhase Phase.tack .tack s (.next { s with tPend := false, phase := Phase.rowsel })

/-- R154: blank first, then select. -/
def execRowsel (s : State) : Out :=
  inPhase Phase.rowsel .rowsel s
    (tableRead (s.cfg.rowSelect s.rowPair.toNat) s.rowPair.toNat fun v =>
      .next { emit (.sel v) (emit (.blank true) s) with colCnt := 0, phase := Phase.shift })

/-- R155: the column's word, then the clock pulse; the last column ends the loop. -/
def execShift (s : State) : Out :=
  inPhase Phase.shift .shift s
    (.next { emit .sck (emit (.data (colWord s.fb s.rowPair.toNat s.bitPlane.toNat s.colCnt.toNat)) s) with
      colCnt := if lastColumn s then 0 else s.colCnt + 1
      phase := if lastColumn s then Phase.latch else Phase.shift })

/-- R157. -/
def execLatch (s : State) : Out :=
  inPhase Phase.latch .latch s (.next { emit .lat s with phase := Phase.unblank })

/-- R158. -/
def execUnblank (s : State) : Out :=
  inPhase Phase.unblank .unblank s (.next { emit (.blank false) s with phase := Phase.treload })

/-- R159. -/
def execTreload (s : State) : Out :=
  inPhase Phase.treload .treload s
    (tableRead (s.cfg.bcm s.bitPlane.toNat) s.bitPlane.toNat fun v =>
      .next { loadTimer v s with tEn := true, phase := Phase.advance })

/-- R160: the cursor's step, and the return to the host context. -/
def execAdvance (s : State) : Out :=
  inPhase Phase.advance .advance s (.next (returnToHost (advanceCursor s)))

end Sys2Proof.Machine
end

