-- ==== Sys2Proof/Machine/System.lean ====
section
/-! DEFINITION. The two set-up commands (spec/42_system_ops.md). -/

namespace Sys2Proof.Machine

/-- The output lines as `INITDISPLAY` leaves them, written without pin events (R180). -/
def setUpLines (s : State) : State := { s with blank := true, sel := 0, lat := false, sck := false, d := 0 }

/-- The timer as `INITDISPLAY` leaves it: loaded and stopped (R180). -/
def setUpTimer (s : State) : State := loadTimer s.cfg.tmrInitReload { s with tEn := false, tPend := false }

/-- The cursor and the sequencer as `INITDISPLAY` leaves them (R180). -/
def setUpSequencer (s : State) : State := { s with rowPair := 0, bitPlane := 0, phase := Phase.idle, colCnt := 0 }

/-- R180. -/
def execInitDisplay (s : State) : Out :=
  whenFree .initDisplay s
    (if s.initDone then .fault .reInit
     else .next { setUpSequencer (setUpTimer (setUpLines s)) with initDone := true })

/-- R181. -/
def execSchedEnable (s : State) : Out :=
  afterInit .schedEnable s (.next { s with tEn := true })

end Sys2Proof.Machine
end

