-- ==== Sys2Proof/Machine/Dispatch.lean ====
section
/-! DEFINITION. One arm a constructor: each calls the meaning of its instruction. -/

namespace Sys2Proof.Machine

def exec (i : Instr) (s : State) : Host.Outcome State Fault Refusal :=
  match i with
  | .setColor r g b => Sys2Proof.Machine.execSetColor r g b s
  | .clear => Sys2Proof.Machine.execClear s
  | .fillSolid => Sys2Proof.Machine.execFillSolid s
  | .drawPixel row col => Sys2Proof.Machine.execDrawPixel row col s
  | .drawRowRun row startCol length => Sys2Proof.Machine.execDrawRowRun row startCol length s
  | .drawColRun col startRow length => Sys2Proof.Machine.execDrawColRun col startRow length s
  | .drawMasked grid => Sys2Proof.Machine.execDrawMasked grid s
  | .initDisplay => Sys2Proof.Machine.execInitDisplay s
  | .schedEnable => Sys2Proof.Machine.execSchedEnable s
  | .entry => Sys2Proof.Machine.execEntry s
  | .tstop => Sys2Proof.Machine.execTstop s
  | .tack => Sys2Proof.Machine.execTack s
  | .rowsel => Sys2Proof.Machine.execRowsel s
  | .shift => Sys2Proof.Machine.execShift s
  | .latch => Sys2Proof.Machine.execLatch s
  | .unblank => Sys2Proof.Machine.execUnblank s
  | .treload => Sys2Proof.Machine.execTreload s
  | .advance => Sys2Proof.Machine.execAdvance s

end Sys2Proof.Machine
end

