-- ==== Sys2Proof/Machine/Agents.lean ====
section
/-! DEFINITION. The agents and the choice among them (spec/00_scope.md R10; notes/assumptions/2.md). -/

namespace Sys2Proof.Machine

/-- The agent chosen to move next: the front of `sched`, and with none chosen the free value. -/
def chosenAgent (s : State) : Agent :=
  match s.sched with
  | a :: _ => a
  | [] => Config.freeAgent s.draws

/-- The agent that moves: the one chosen where it has an enabled step, else the timer, whose `Tick` is always enabled. -/
def nextAgent (s : State) : Agent :=
  if hostEnabled s || engineEnabled s then
    match chosenAgent s with
    | .host => if hostEnabled s then .host else .timer
    | .engine => if engineEnabled s then .engine else .timer
    | .timer => .timer
  else .timer

/-- The choice is used up. -/
def consumeChoice (s : State) : State :=
  { s with
    sched := s.sched.tail
    draws := if s.sched = [] then s.draws + 1 else s.draws }

/-- `HostIssue` with the command at the front of the port, which is taken off it (spec/30_encoding.md R91, R96). -/
def hostIssue (s : State) : Out :=
  match decodeHost s.port with
  | .command i rest => exec i { s with port := rest }
  | .reserved w => .fault (.rsvd w)
  | .incomplete => .refused .noCommand

/-- A step of the host: the next cell write of the command in flight, or the next command. -/
def hostStep (s : State) : Out :=
  match s.hCmd with
  | some c => hostCell c s
  | none => hostIssue s

/-- A step of the engine: the operation whose code is `PHASE` (spec/30_encoding.md R97). -/
def engineStep (s : State) : Out :=
  match decodePhase s.phase with
  | some i => exec i s
  | none => .refused (.phaseUnreachable s.phase)

/-- The step of one agent. -/
def agentStep (a : Agent) (s : State) : Out :=
  match a with
  | .host => hostStep s
  | .engine => engineStep s
  | .timer => .next (tick s)

/-- The command `w` at the front of the port, in the host context, chosen to move. -/
def presentCommand (w : Nat) (s : State) : State :=
  { s with
    port := tableWords w ++ s.port
    phase := Phase.idle
    hCmd := none
    sched := .host :: s.sched }

/-- The sequencer at phase code `w`, chosen to move; code 0 is `ENTRY`, which also needs the pending expiry and
`INIT_DONE` that enable it (spec/41_scanout_engine.md R151). -/
def placePhase (w : Nat) (s : State) : State :=
  { s with
    phase := BitVec.ofNat 4 w
    tPend := if w = 0 then true else s.tPend
    initDone := if w = 0 then true else s.initDone
    sched := .engine :: s.sched }

end Sys2Proof.Machine
end

