-- ==== Sys2Proof/Machine/Step.lean ====
section
/-! DEFINITION. One step of the machine. -/

namespace Sys2Proof.Machine

/-- A configuration that is not well formed is refused (`F_CONFIG`, spec/60_exceptions.md R191); otherwise one enabled step
of one agent is taken (spec/00_scope.md R10). -/
def step (s : State) : Host.Outcome State Fault Refusal :=
  match s.cfg.failing with
  | some c => .fault (.config c)
  | none => agentStep (nextAgent s) (consumeChoice s)

/-- The operation of one opcode-table row stands where the very next step takes it (notes/assumptions/3.md, 24.md). -/
def State.withFetchWord (s : State) (nbits w : Nat) : State :=
  if nbits ≤ 8 then placePhase w s else presentCommand w s

end Sys2Proof.Machine
end

