-- ==== Sys2Proof/Machine/Panel.lean ====
section
/-! DEFINITION. What the outside sees: which LEDs are lit (spec/60_exceptions.md R208) and the electrical levels of the pins
(spec/00_scope.md R6, `PIN_POLARITY`). Nothing the block does reads either. The panel's wiring belongs to the environment
(spec/93_implementation_defined.md U13, spec/70_reset_and_hazards.md R239) and is an argument here: the select code each of
the 16 physical row-pairs answers to. R208 as written is the wiring `ROW_SELECT_MAP`. -/

namespace Sys2Proof.Machine

/-- The bit of `P_LATCH[col]` that drives a channel of a row: bits 0 to 2 the upper rows, 3 to 5 the lower (R208). -/
def latchBit (row : Nat) (ch : Channel) : Nat := if row < 16 then channelIndex ch else channelIndex ch + 3

/-- The LED of one channel of cell (`row`, `col`) is on: the panel is not blanked, the row's pair is wired to the code on
`SEL`, and its latched bit is 1 (R208, U13; notes/assumptions/25.md). -/
def lit (wiring : List Nat) (s : State) (row col : Nat) (ch : Channel) : Bool :=
  !s.blank && decide (row < 32) && decide (col < 32) &&
    wiring[row % 16]? == some s.sel && (s.pLatch.getD col 0).getLsbD (latchBit row ch)

/-- The logical level of each output line, in the order of `Config.pinPolarity`. -/
def pinLevels (s : State) : List Bool :=
  (List.range s.cfg.selW).map s.sel.testBit ++ [s.blank, s.lat, s.sck] ++ (List.range 6).map s.d.getLsbD

/-- The electrical levels: each the logical one or its complement. -/
def electricalLevels (s : State) : List Bool := List.zipWith xor (pinLevels s) s.cfg.pinPolarity

end Sys2Proof.Machine
end

