-- ==== Sys2Proof/Safety.lean ====
section
/-! DEFINITION. The terms claims about the machine are stated in: the outcome of a step, runs and their fairness, the
invariant of reachable states, and what one whole invocation or one whole command does. Nothing here is read by the machine. -/

namespace Sys2Proof.Machine

/-! ## Outcomes and traces -/

def nextOf : Out → Option State
  | .next s => some s
  | .fault _ => none
  | .refused _ => none

def faultOf : Out → Option Fault
  | .next _ => none
  | .fault f => some f
  | .refused _ => none

def refusalOf : Out → Option Refusal
  | .next _ => none
  | .fault _ => none
  | .refused r => some r

/-- The pin events of a trace, in order. -/
def pinEvents (tr : List TraceMark) : List PinEvent :=
  tr.filterMap fun m =>
    match m with
    | .pin e => some e
    | .tick => none

/-- How many `Tick` marks a trace has. -/
def tickCount (tr : List TraceMark) : Nat := tr.count .tick

/-! ## Runs (spec/00_scope.md R10, spec/70_reset_and_hazards.md R241) -/

/-- `n` steps that all answer a next state, the last of them `t`. -/
def Reaches (n : Nat) (s t : State) : Prop := Host.Core.run Sys2Proof.core n s = .next t

/-- A safe run: no fault and no refusal within `n` steps. -/
def SafeFor (n : Nat) (s : State) : Prop := ∃ t, Reaches n s t

/-- `σ` is a run for its first `n` steps. -/
def RunUpTo (σ : Nat → State) (n : Nat) : Prop := ∀ m, m < n → step (σ m) = .next (σ (m + 1))

/-- How many of the first `n` steps of `σ` are taken from a state with `p`. -/
def stepCount (p : State → Bool) (σ : Nat → State) (n : Nat) : Nat := (List.range n).countP fun m => p (σ m)

/-- How many of them are the engine's, taken in a phase. -/
def engineSteps (phase : BitVec 4) : (Nat → State) → Nat → Nat :=
  stepCount fun s => nextAgent s == .engine && s.phase == phase

/-- How many of them are the host's. -/
def hostSteps : (Nat → State) → Nat → Nat := stepCount fun s => nextAgent s == .host

/-- How many of them are ticks that latch an expiry where none was pending (spec/60_exceptions.md R202, R204). -/
def latchedExpiries : (Nat → State) → Nat → Nat :=
  stepCount fun s => nextAgent s == .timer && expires s && !s.tPend

/-- How many of them are ticks in a state in which an LED is on. -/
def litTicks (wiring : List Nat) (row col : Nat) (ch : Channel) : (Nat → State) → Nat → Nat :=
  stepCount fun s => nextAgent s == .timer && lit wiring s row col ch

/-- Zero overhead (spec/41_scanout_engine.md R166): no tick falls inside an invocation or before the entry of a pending one. -/
def NoOverhead (σ : Nat → State) (n : Nat) : Prop :=
  ∀ m, m < n → nextAgent (σ m) = .timer → (σ m).phase = Phase.idle ∧ (σ m).tPend = false

/-- An endless run. -/
def IsRun (σ : Nat → State) : Prop := ∀ n, step (σ n) = .next (σ (n + 1))

/-- "Weak fairness for the engine and the timer: an engine step or a `Tick` that stays enabled is eventually taken" (R10).
It is a hypothesis about a run; the step does not force it (notes/assumptions/22.md). -/
def WeaklyFair (σ : Nat → State) : Prop :=
  (∀ n, ∃ m, n ≤ m ∧ nextAgent (σ m) = .timer) ∧
  ∀ n, (∀ m, n ≤ m → engineEnabled (σ m) = true) → ∃ m, n ≤ m ∧ nextAgent (σ m) = .engine

/-! ## The invariant -/

/-- `PHASE ≤ 8`, `BIT_PLANE < BIT_DEPTH`, `COLCNT = 0` outside `SHIFT`, no invocation before `INITDISPLAY`
(spec/10_state.md R24, R25, R26, spec/70_reset_and_hazards.md R231). -/
abbrev SequencerInv (s : State) : Prop :=
  s.phase.toNat ≤ 8 ∧ s.bitPlane.toNat < s.cfg.bitDepth ∧ (s.phase ≠ Phase.shift → s.colCnt = 0) ∧
  (s.phase ≠ Phase.idle → s.initDone = true)

/-- The interlock of the timer with an invocation, and the legal values of its registers once `INITDISPLAY` has run
(spec/10_state.md R29 to R32, spec/41_scanout_engine.md R152, R153). -/
abbrev TimerInv (s : State) : Prop :=
  (s.initDone = false → s.tEn = false ∧ s.tPend = false) ∧
  (s.initDone = true → 1 ≤ s.tReload ∧ s.tReload < 2 ^ s.cfg.timerW ∧ 1 ≤ s.tCount ∧ s.tCount < 2 ^ s.cfg.timerW) ∧
  (s.phase = Phase.tstop ∨ s.phase = Phase.tack → s.tPend = true) ∧
  (2 ≤ s.phase.toNat ∧ s.phase.toNat ≤ 7 → s.tEn = false) ∧
  (3 ≤ s.phase.toNat ∧ s.phase.toNat ≤ 7 → s.tPend = false) ∧
  (s.phase = Phase.advance → s.tEn = true)

/-- Pulses are over between steps, the panel is dark from `ROWSEL` to `UNBLANK`, and the select lines carry the code of the
row-pair being shown (spec/10_state.md R33 to R35, spec/41_scanout_engine.md R164). -/
abbrev PinInv (s : State) : Prop :=
  (s.initDone = true → s.lat = false ∧ s.sck = false ∧ s.sel < 2 ^ s.cfg.selW) ∧
  (4 ≤ s.phase.toNat ∧ s.phase.toNat ≤ 6 → s.blank = true) ∧
  (7 ≤ s.phase.toNat → s.blank = false) ∧
  (4 ≤ s.phase.toNat → s.cfg.rowSelect s.rowPair.toNat = some s.sel) ∧
  s.pSr.length = 32 ∧ s.pLatch.length = 32

/-- The command in flight was accepted: it is well formed, its next cell exists, and all its cells are in the grid
(spec/10_state.md R39, spec/40_drawing_surface.md R120, R130). -/
abbrev CommandInv (s : State) (c : InFlight) : Prop :=
  s.initDone = true ∧ c.cmd.wellFormed = true ∧ s.hIdx < (cellCoords c.cmd).length ∧
  (∀ p ∈ cellCoords c.cmd, p.1 < 32 ∧ p.2 < 32)

abbrev HostInv (s : State) : Prop :=
  (∀ c ∈ s.hCmd, CommandInv s c) ∧ (s.hCmd = none ∨ s.cfg.channelTear = false → s.hChan = .red) ∧
  (s.dcValid = true → s.initDone = true)

/-- What holds in every state a run of a well-formed configuration reaches. -/
abbrev Inv (s : State) : Prop :=
  s.cfg.Wf ∧ s.fb.wf ∧ SequencerInv s ∧ TimerInv s ∧ PinInv s ∧ HostInv s

/-! ## One whole invocation (spec/41_scanout_engine.md R162) -/

/-- The 32 column words of row-pair `p`, plane `k`, in column order. -/
def rowWords (m : Memory) (p k : Nat) : List ColData := (List.range 32).map (colWord m p k)

/-- The 68 pin events of an invocation (R164). -/
def invocationEvents (v : Nat) (ws : List ColData) : List PinEvent :=
  [.blank true, .sel v] ++ ws.flatMap (fun w => [.data w, .sck]) ++ [.lat, .blank false]

/-- The phase after `n` of the 40 engine steps of an invocation: a function of `n` alone (spec/41_scanout_engine.md R161). -/
def phaseAfter (n : Nat) : BitVec 4 :=
  if n < 4 then BitVec.ofNat 4 n
  else if n < 36 then Phase.shift
  else if n < 40 then BitVec.ofNat 4 (n - 31)
  else Phase.idle

/-- `COLCNT` after `n` of them. -/
def columnAfter (n : Nat) : Nat := if 4 ≤ n ∧ n < 36 then n - 4 else 0

/-- The state after an invocation no tick falls into, `v` the select code and `n` the duration the tables give: R162 with
`t = 0`. -/
def afterInvocation (v n : Nat) (s : State) : State :=
  let ws := rowWords s.fb s.rowPair.toNat s.bitPlane.toNat
  { s with
    trace := s.trace ++ (invocationEvents v ws).map .pin
    sel := v
    blank := false
    d := colWord s.fb s.rowPair.toNat s.bitPlane.toNat 31
    lat := false
    sck := false
    pSr := ws
    pLatch := ws
    tPend := false
    tEn := true
    tReload := n
    tCount := n
    colCnt := 0
    rowPair := if lastPlane s then s.rowPair + 1 else s.rowPair
    bitPlane := if lastPlane s then 0 else s.bitPlane + 1 }

/-! ## One whole command (spec/40_drawing_surface.md R120) -/

/-- Host steps one cell write takes (spec/20_memory.md R65). -/
def stepsPerCell (c : Config) : Nat := if c.channelTear then 3 else 1

/-- Host steps a command's cells take. -/
def cellSteps (c : Config) (cmd : Instr) : Nat := stepsPerCell c * (cellCoords cmd).length

/-- `t` is `s` after cells: the framebuffer holds `color` at the cells of `cmd` and what it held elsewhere, and nothing else
but the host's progress differs. -/
def DrawnFrom (cmd : Instr) (color : Color) (s t : State) : Prop :=
  t = { s with fb := t.fb, hCmd := none, hIdx := (cellCoords cmd).length, hChan := .red } ∧
  t.fb.wf ∧
  ∀ row col, row < 32 → col < 32 →
    readCell t.fb row col = if (row, col) ∈ cellCoords cmd then color else readCell s.fb row col

/-- The state with the host chosen for its next `n` steps, and the words `ws` at the front of its port. -/
def hostTurn (ws : List Word) (n : Nat) (s : State) : State :=
  { s with port := ws ++ s.port, sched := List.replicate n .host ++ s.sched }

/-- The words of a command; none for a sequencer operation. -/
def commandWords (i : Instr) : List Word :=
  match encode i with
  | .words ws => ws
  | .phase _ => []

/-- The state with the engine chosen for its next `n` steps. -/
def engineTurn (n : Nat) (s : State) : State := { s with sched := List.replicate n .engine ++ s.sched }

/-- The state less the picture: the framebuffer's contents and what carries them to the panel. -/
def withoutPicture (s : State) : State :=
  { s with fb := [], d := 0, pSr := [], pLatch := [], trace := [] }

/-- The durations of the planes in which a channel of intensity `v` has a 1 bit, added up (spec/41_scanout_engine.md R167). -/
def weightOf (c : Config) (v : Byte) : Nat :=
  ((List.range c.bitDepth).map fun k => if v.getLsbD k then (c.bcm k).getD 0 else 0).sum

end Sys2Proof.Machine
end

