-- ==== Sys2Proof/Certificates/Slice0/Obligations.lean ====
section
/-! DEFINITION. The statements about the machine, for the provers. Each docstring names the rule of spec/ it formalises and,
where it rests on a choice of the spec's own ("[decision: …]") or of the model (notes/assumptions/<n>.md), says so. -/

open Sys2Proof Sys2Proof.Machine

/-! ## Encoding -/

/-- spec/30_encoding.md R92 to R97: decoding an encoded operation gives it back, with every operand at every value, alone and
in front of other words. The command words and phase codes are the spec's own (D17, D19). -/
def Obligations.DecodeOfEncodeIsTheInstruction : Prop :=
  (∀ i : Instr, i.wellFormed = true → decode (encode i) = some i) ∧
  ∀ (i : Instr) (rest : List Word), i.wellFormed = true → i.isHost = true →
    decodeHost (commandWords i ++ rest) = .command i rest

/-- spec/30_encoding.md R90, R95: "each legal command word is exactly one call". The other direction of the round trip (D17, D19). -/
def Obligations.EncodeOfDecodeIsTheCode : Prop :=
  (∀ (c : Code) (i : Instr), decode c = some i → i.wellFormed = true ∧ encode i = c) ∧
  ∀ (ws rest : List Word) (i : Instr), decodeHost ws = .command i rest →
    i.isHost = true ∧ i.wellFormed = true ∧ commandWords i ++ rest = ws

/-- spec/30_encoding.md R95, R96 (D17, D18): a word selects at most one row, and the reserved words, said by the fields of R92
rather than by the masks of R95. -/
def Obligations.WordsSelectOneRowOrAreReserved : Prop :=
  (∀ (w : Word) (x y : OpRow), x ∈ hostRows → y ∈ hostRows → x.selects w = true → y.selects w = true → x = y) ∧
  ∀ (w : Word) (rest : List Word),
    decodeHost (w :: rest) = .reserved w ↔
      (w.extractLsb' 28 4 = 0#4 ∨ 10 ≤ (w.extractLsb' 28 4).toNat) ∨
      ((w.extractLsb' 28 4 = 1#4 ∨ w.extractLsb' 28 4 = 5#4 ∨ w.extractLsb' 28 4 = 6#4) ∧ w.extractLsb' 24 4 ≠ 0#4) ∨
      (w.extractLsb' 28 4 = 4#4 ∧ w.extractLsb' 16 12 ≠ 0#12) ∨
      ((w.extractLsb' 28 4 = 2#4 ∨ w.extractLsb' 28 4 = 3#4 ∨ w.extractLsb' 28 4 = 7#4 ∨ w.extractLsb' 28 4 = 8#4 ∨
        w.extractLsb' 28 4 = 9#4) ∧ w.extractLsb' 0 28 ≠ 0#28)

/-- spec/30_encoding.md R94: `DRAWMASKED` is its word and exactly 32 payload words, none of them read as a command; with
fewer the command is not complete (spec/93_implementation_defined.md U12). -/
def Obligations.MaskedCommandTakesThirtyTwoPayloadWords : Prop :=
  (∀ g rest : List Word, g.length = 32 →
    decodeHost (0x70000000#32 :: (g ++ rest)) = .command (.drawMasked g) rest) ∧
  ∀ g : List Word, g.length < 32 → decodeHost (0x70000000#32 :: g) = .incomplete

/-- Words of spec/95_test_vectors.md B1, one a format and family, and spec/30_encoding.md R97 (D19): the operation of every
phase code, and none for 9 to 15. -/
def Obligations.SampleCodesDecodeAsTheSpecSays : Prop :=
  decodeHost [0x10FF0000] = .command (.setColor 255 0 0) [] ∧ decodeHost [0x20000000] = .command .clear [] ∧
  decodeHost [0x4000101F] = .command (.drawPixel 16 31) [] ∧ decodeHost [0x50050204] = .command (.drawRowRun 5 2 4) [] ∧
  decodeHost [0x60070E04] = .command (.drawColRun 7 14 4) [] ∧ decodeHost [0x90000000] = .command .schedEnable [] ∧
  decodeHost [0x11000000] = .reserved 0x11000000 ∧
  (List.range 16).map (fun k => decodePhase (BitVec.ofNat 4 k)) =
    [some .entry, some .tstop, some .tack, some .rowsel, some .shift, some .latch, some .unblank, some .treload,
      some .advance, none, none, none, none, none, none, none]

/-! ## Configuration and reset -/

/-- spec/00_scope.md R7 (D2, D3), with the tables' lengths from R6: `WF_CONFIG` as the spec writes it; and spec/60_exceptions.md
R191, `F_CONFIG` (D20): a configuration that is not well formed stops the machine before its first step, with the clause
that fails; which one, where several fail, is the model's choice (`Config.failing`, notes/assumptions/34.md). -/
def Obligations.ConfigurationIsCheckedClauseByClause : Prop :=
  (∀ (s : State) (c : ConfigClause), s.cfg.failing = some c → step s = .fault (.config c)) ∧
  ∀ c : Config, c.Wf ↔
    (1 ≤ c.bitDepth ∧ c.bitDepth ≤ 8) ∧ c.bcmTable.length = c.bitDepth ∧ c.rowSelectMap.length = 16 ∧
    (∀ k, k < c.bitDepth → 1 ≤ c.bcmTable.getD k 0 ∧ c.bcmTable.getD k 0 < 2 ^ c.timerW) ∧
    (∀ k, k + 1 < c.bitDepth → c.bcmTable.getD k 0 ≤ c.bcmTable.getD (k + 1) 0) ∧
    (∀ k, k + 1 < c.bitDepth →
      ((c.bcmTable.getD (k + 1) 0 : Int) - 2 * (c.bcmTable.getD k 0 : Int)).natAbs ≤ c.bcmTol) ∧
    (∀ p, p < 16 → c.rowSelectMap.getD p 0 < 2 ^ c.selW) ∧
    (1 ≤ c.tmrInitReload ∧ c.tmrInitReload < 2 ^ c.timerW)

/-- spec/70_reset_and_hazards.md R230, the values it fixes (D25, D35); the values it leaves unspecified are not mentioned. -/
def Obligations.ResetLeavesTheValuesTheSpecGives : Prop :=
  ∀ cfg : Config,
    let s := State.resetWith cfg
    (∀ row col, readCell s.fb row col = ⟨0, 0, 0⟩) ∧ s.rowPair = 0 ∧ s.bitPlane = 0 ∧ s.phase = Phase.idle ∧
      s.colCnt = 0 ∧ s.tEn = false ∧ s.tPend = false ∧ s.initDone = false ∧ s.dcValid = false ∧ s.hCmd = none ∧
      s.hIdx = 0 ∧ s.cfg = cfg

/-- The invariant holds after reset, under every well-formed configuration. -/
def Obligations.ResetMeetsTheInvariant : Prop :=
  ∀ cfg : Config, cfg.Wf → Inv (State.resetWith cfg)

/-! ## Steps -/

/-- spec/00_scope.md R10, spec/30_encoding.md R97: the step is the operation of the agent that was chosen, decoded from the
phase or from the port; what the step adds is that the choice, and a command's words, are used up (notes/assumptions/2.md, 3.md). A reserved word at
the port stops the step with `F_RSVD` (spec/30_encoding.md R96, spec/60_exceptions.md R191; D18). -/
def Obligations.StepRunsTheDecodedOperation : Prop :=
  ∀ s : State, s.cfg.Wf →
    (∀ i, chosenAgent s = .engine → engineEnabled s = true → decodePhase s.phase = some i →
      step s = exec i (consumeChoice s)) ∧
    (∀ i rest, chosenAgent s = .host → s.phase = Phase.idle → s.hCmd = none → decodeHost s.port = .command i rest →
      step s = exec i { consumeChoice s with port := rest }) ∧
    (∀ w, chosenAgent s = .host → s.phase = Phase.idle → s.hCmd = none → decodeHost s.port = .reserved w →
      step s = .fault (.rsvd w)) ∧
    (∀ c, chosenAgent s = .host → s.phase = Phase.idle → s.hCmd = some c → step s = hostCell c (consumeChoice s)) ∧
    (chosenAgent s = .timer → step s = .next (tick (consumeChoice s)))

/-- The words of spec/opcode_table.json, placed where the next step takes them, run as the operation they decode to
(spec/30_encoding.md R91, R94, R97; the placing is the model's, notes/assumptions/3.md, 24.md). -/
def Obligations.PlacedTableWordIsTheNextOperation : Prop :=
  ∀ (s : State) (w : Nat) (i : Instr), s.cfg.Wf →
    (decodeTableWord 32 w = some i →
      step (s.withFetchWord 32 w) = exec i { s with phase := Phase.idle, hCmd := none }) ∧
    (decodeTableWord 8 w = some i →
      step (s.withFetchWord 8 w) = exec i { s with
        phase := BitVec.ofNat 4 w
        tPend := if w = 0 then true else s.tPend
        initDone := if w = 0 then true else s.initDone })

/-- spec/00_scope.md R10: every step is a step of an agent that the rule enables, and each enabled agent can be the one.
That a choice with no enabled step falls to the always enabled `Tick` is the model's (notes/assumptions/2.md). -/
def Obligations.OnlyEnabledAgentsMove : Prop :=
  ∀ s : State,
    (nextAgent s = .host → s.phase = Phase.idle ∧ (s.hCmd ≠ none ∨ decodeHost s.port ≠ .incomplete)) ∧
    (nextAgent s = .engine → s.phase ≠ Phase.idle ∨ (s.tPend = true ∧ s.initDone = true)) ∧
    ∀ a : Agent,
      (a = .host → s.phase = Phase.idle ∧ (s.hCmd ≠ none ∨ decodeHost s.port ≠ .incomplete)) →
      (a = .engine → s.phase ≠ Phase.idle ∨ (s.tPend = true ∧ s.initDone = true)) →
      nextAgent { s with sched := a :: s.sched } = a

/-- Every step keeps the invariant, from every state that has it: the framebuffer stays canonical and inside the grid, `PHASE`
and the cursor stay legal, the timer's interlock, the blanking and the select code hold, and a command in flight stays
inside its cell list (spec/10_state.md R24 to R26, R29 to R36, R39). -/
def Obligations.EveryStepKeepsTheInvariant : Prop :=
  ∀ s s' : State, Inv s → step s = .next s' → Inv s'

/-- spec/70_reset_and_hazards.md R231: before `INITDISPLAY` the engine never moves, no pin event occurs and the framebuffer
stays as it is. -/
def Obligations.NothingScansBeforeInitDisplay : Prop :=
  ∀ s s' : State, Inv s → s.initDone = false → step s = .next s' →
    nextAgent s ≠ .engine ∧ s'.phase = Phase.idle ∧ s'.fb = s.fb ∧ pinEvents s'.trace = pinEvents s.trace

/-! ## Set-up commands -/

/-- spec/42_system_ops.md R180 (D22, D24), R181 (D23): all `INITDISPLAY` writes, `SCHEDENABLE` setting `T_EN` and reloading
nothing, and that each leaves the rest. -/
def Obligations.SetUpCommandsWriteTheirRegisters : Prop :=
  ∀ s : State, s.phase = Phase.idle → s.hCmd = none →
    (s.initDone = false → exec .initDisplay s = .next { s with
      blank := true, sel := 0, lat := false, sck := false, d := 0, tEn := false, tPend := false,
      tReload := s.cfg.tmrInitReload, tCount := s.cfg.tmrInitReload, rowPair := 0, bitPlane := 0,
      phase := Phase.idle, colCnt := 0, initDone := true }) ∧
    (s.initDone = true → exec .schedEnable s = .next { s with tEn := true })

/-- spec/60_exceptions.md R191 (D20): `F_BUSY` before `F_NOINIT` or `F_REINIT`, for every host command. -/
def Obligations.CommandsOutOfTurnFault : Prop :=
  ∀ (i : Instr) (s : State), i.isHost = true →
    ((s.phase ≠ Phase.idle ∨ s.hCmd ≠ none) → exec i s = .fault (.busy i)) ∧
    (s.phase = Phase.idle → s.hCmd = none → s.initDone = false → i ≠ .initDisplay → exec i s = .fault (.noInit i)) ∧
    (s.phase = Phase.idle → s.hCmd = none → s.initDone = true → i = .initDisplay → exec i s = .fault .reInit)

/-! ## Drawing commands -/

/-- spec/40_drawing_surface.md R121 (D32): `SETCOLOR` writes the draw colour and nothing else, in its issue step. -/
def Obligations.SetColorReplacesTheDrawColor : Prop :=
  ∀ (r g b : Byte) (s : State), s.phase = Phase.idle → s.hCmd = none → s.initDone = true →
    exec (.setColor r g b) s = .next { s with drawColor := ⟨r, g, b⟩, dcValid := true }

/-- spec/40_drawing_surface.md R120, R122: `CLEAR` is issued without a valid draw colour, and its cells get the zero colour. -/
def Obligations.ClearStartsWithoutADrawColor : Prop :=
  ∀ s : State, s.phase = Phase.idle → s.hCmd = none → s.initDone = true →
    exec .clear s = .next { s with hCmd := some ⟨.clear, ⟨0, 0, 0⟩⟩, hIdx := 0, hChan := .red }

/-- spec/40_drawing_surface.md R120, R123, R124: `FILLSOLID` and an in-range `DRAWPIXEL` are issued with the draw colour of
the moment. -/
def Obligations.FillAndPixelStartWithTheDrawColor : Prop :=
  ∀ s : State, s.phase = Phase.idle → s.hCmd = none → s.initDone = true → s.dcValid = true →
    exec .fillSolid s = .next { s with hCmd := some ⟨.fillSolid, s.drawColor⟩, hIdx := 0, hChan := .red } ∧
    ∀ row col : Byte, row.toNat < 32 → col.toNat < 32 →
      exec (.drawPixel row col) s =
        .next { s with hCmd := some ⟨.drawPixel row col, s.drawColor⟩, hIdx := 0, hChan := .red }

/-- spec/40_drawing_surface.md R125, R126 (D29): a run inside the grid is issued; an empty run changes nothing and needs no
draw colour. -/
def Obligations.RunsInsideTheGridStart : Prop :=
  ∀ (s : State) (fix start len : Byte), s.phase = Phase.idle → s.hCmd = none → s.initDone = true →
    fix.toNat < 32 → start.toNat + len.toNat ≤ 32 →
    (len = 0 → exec (.drawRowRun fix start len) s = .next s ∧ exec (.drawColRun fix start len) s = .next s) ∧
    (len ≠ 0 → s.dcValid = true →
      exec (.drawRowRun fix start len) s =
        .next { s with hCmd := some ⟨.drawRowRun fix start len, s.drawColor⟩, hIdx := 0, hChan := .red } ∧
      exec (.drawColRun fix start len) s =
        .next { s with hCmd := some ⟨.drawColRun fix start len, s.drawColor⟩, hIdx := 0, hChan := .red })

/-- spec/40_drawing_surface.md R127 (D14): a stencil with a 1 bit is issued; an all-zero stencil changes nothing and needs no
draw colour. -/
def Obligations.MaskedFillStartsWhenAnyBitIsSet : Prop :=
  ∀ (s : State) (g : List Word), s.phase = Phase.idle → s.hCmd = none → s.initDone = true → g.length = 32 →
    ((∀ w ∈ g, w = 0) → exec (.drawMasked g) s = .next s) ∧
    ((∃ w ∈ g, w ≠ 0) → s.dcValid = true →
      exec (.drawMasked g) s = .next { s with hCmd := some ⟨.drawMasked g, s.drawColor⟩, hIdx := 0, hChan := .red })

/-- spec/60_exceptions.md R191, spec/93_implementation_defined.md U1, U2 (D20, D29): operands outside the grid stop the model, coordinates
before runs, with no wrap of `start + len`. -/
def Obligations.OperandsOutsideTheGridFault : Prop :=
  ∀ (s : State) (x y n : Byte), s.phase = Phase.idle → s.hCmd = none → s.initDone = true →
    (32 ≤ x.toNat ∨ 32 ≤ y.toNat → exec (.drawPixel x y) s = .fault (.coord x.toNat y.toNat)) ∧
    (32 ≤ x.toNat →
      exec (.drawRowRun x y n) s = .fault (.coord x.toNat y.toNat) ∧
      exec (.drawColRun x y n) s = .fault (.coord y.toNat x.toNat)) ∧
    (x.toNat < 32 → 32 < y.toNat + n.toNat →
      exec (.drawRowRun x y n) s = .fault (.run y.toNat n.toNat) ∧
      exec (.drawColRun x y n) s = .fault (.run y.toNat n.toNat))

/-- spec/60_exceptions.md R191, spec/93_implementation_defined.md U9 (D21): a command that would write a cell from a draw colour nothing set. -/
def Obligations.DrawingWithoutAColorFaults : Prop :=
  ∀ (s : State) (i : Instr), s.phase = Phase.idle → s.hCmd = none → s.initDone = true → s.dcValid = false →
    i.isHost = true → i ≠ .clear → cellCoords i ≠ [] → (∀ p ∈ cellCoords i, p.1 < 32 ∧ p.2 < 32) →
    exec i s = .fault (.unsetColor i)

/-- spec/40_drawing_surface.md R131, spec/60_exceptions.md R200: the frame of a drawing command's issue. It writes no byte of the framebuffer
and no register but the host's progress and, for `SETCOLOR`, the draw colour. -/
def Obligations.IssuingADrawingCommandChangesOnlyHostState : Prop :=
  ∀ (i : Instr) (s t : State), i.isHost = true → i ≠ .initDisplay → i ≠ .schedEnable → exec i s = .next t →
    t = { s with drawColor := t.drawColor, dcValid := t.dcValid, hCmd := t.hCmd, hIdx := t.hIdx, hChan := t.hChan } ∧
    (∀ a, t.fb.read a = s.fb.read a) ∧
    ((∀ r g b, i ≠ .setColor r g b) → t.drawColor = s.drawColor ∧ t.dcValid = s.dcValid)

/-- spec/40_drawing_surface.md R120, "Cell steps", spec/20_memory.md R65: in the default mode a `HostCell` step writes the cell its index
names, counts it, and ends the command at the end of the list. -/
def Obligations.HostCellWritesTheNextCell : Prop :=
  ∀ (s : State) (c : InFlight) (row col : Nat), s.fb.wf → s.cfg.channelTear = false →
    (cellCoords c.cmd)[s.hIdx]? = some (row, col) → row < 32 → col < 32 →
    ∃ t, hostCell c s = .next t ∧ readCell t.fb row col = c.color ∧ t.hIdx = s.hIdx + 1 ∧
      t.hCmd = if s.hIdx + 1 = (cellCoords c.cmd).length then none else some c

/-- spec/40_drawing_surface.md R124 ("no other cell changes"), R131: the frame of a `HostCell` step, in both modes of
`CHANNEL_TEAR`. Every byte outside the cell it writes reads as before, and only the host's progress changes beside it. -/
def Obligations.HostCellChangesNoOtherCell : Prop :=
  ∀ (s t : State) (c : InFlight), s.fb.wf → hostCell c s = .next t →
    t = { s with fb := t.fb, hCmd := t.hCmd, hIdx := t.hIdx, hChan := t.hChan } ∧
    ∀ row col, (cellCoords c.cmd)[s.hIdx]? = some (row, col) →
      ∀ a, (∀ ch, a ≠ channelAddr row col ch) → t.fb.read a = s.fb.read a

/-- spec/20_memory.md R65 (D15): with `CHANNEL_TEAR` a cell write is three steps, red, green, blue, and the third leaves what
one whole write leaves. -/
def Obligations.ThreeTornWritesMakeOneCell : Prop :=
  ∀ (s : State) (c : InFlight) (row col : Nat), s.cfg.channelTear = true → s.hChan = .red → s.hCmd = some c →
    (cellCoords c.cmd)[s.hIdx]? = some (row, col) → row < 32 → col < 32 →
    ∃ u v, hostCell c s = .next u ∧ hostCell c u = .next v ∧
      u = { s with fb := writeChannel s.fb row col .red c.color.r, hChan := .green } ∧
      v = { u with fb := writeChannel u.fb row col .green c.color.g, hChan := .blue } ∧
      hostCell c v = .next { s with
        fb := writeCell s.fb row col c.color, hChan := .red, hIdx := s.hIdx + 1
        hCmd := if s.hIdx + 1 < (cellCoords c.cmd).length then some c else none }

/-- spec/40_drawing_surface.md R120, R131 (D15, D16): an accepted drawing command, left alone by the other agents, writes exactly the
cells of its list and nothing else, in both modes of `CHANNEL_TEAR`. -/
def Obligations.CommandWritesExactlyItsCells : Prop :=
  ∀ (i : Instr) (s : State), i.isHost = true → i.wellFormed = true → cellCoords i ≠ [] →
    (∀ p ∈ cellCoords i, p.1 < 32 ∧ p.2 < 32) → (i = .clear ∨ s.dcValid = true) →
    s.cfg.Wf → s.fb.wf → s.phase = Phase.idle → s.hCmd = none → s.initDone = true →
    ∃ t, Reaches (1 + cellSteps s.cfg i) (hostTurn (commandWords i) (1 + cellSteps s.cfg i) s) t ∧
      DrawnFrom i (if i = .clear then zeroColor else s.drawColor) s t

/-- spec/40_drawing_surface.md R122, R123: after `Clear()` every cell is the zero colour, after `FillSolid()` every cell is the draw
colour, whatever the framebuffer held. -/
def Obligations.ClearAndFillLeaveOneColor : Prop :=
  ∀ s : State, s.cfg.Wf → s.fb.wf → s.phase = Phase.idle → s.hCmd = none → s.initDone = true →
    let n := 1 + stepsPerCell s.cfg * 1024
    (∃ t, Reaches n (hostTurn [0x20000000] n s) t ∧ t.hCmd = none ∧ t.drawColor = s.drawColor ∧
      ∀ row col, row < 32 → col < 32 → readCell t.fb row col = ⟨0, 0, 0⟩) ∧
    (s.dcValid = true → ∃ t, Reaches n (hostTurn [0x30000000] n s) t ∧ t.hCmd = none ∧ t.drawColor = s.drawColor ∧
      ∀ row col, row < 32 → col < 32 → readCell t.fb row col = s.drawColor)

/-- spec/40_drawing_surface.md R124 to R126: which cells a pixel and a run change, in the words' own operands; every other cell keeps
its value. -/
def Obligations.PixelAndRunsChangeTheirCellsOnly : Prop :=
  ∀ (s : State) (x y n : Byte), s.cfg.Wf → s.fb.wf → s.phase = Phase.idle → s.hCmd = none → s.initDone = true →
    s.dcValid = true →
    (x.toNat < 32 → y.toNat < 32 →
      ∃ t, Reaches (1 + stepsPerCell s.cfg) (hostTurn [word2 0x4 x y] (1 + stepsPerCell s.cfg) s) t ∧ t.hCmd = none ∧
        ∀ row col, row < 32 → col < 32 →
          readCell t.fb row col = if row = x.toNat ∧ col = y.toNat then s.drawColor else readCell s.fb row col) ∧
    (x.toNat < 32 → y.toNat + n.toNat ≤ 32 →
      let k := 1 + stepsPerCell s.cfg * n.toNat
      (∃ t, Reaches k (hostTurn [word3 0x5 x y n] k s) t ∧ t.hCmd = none ∧
        ∀ row col, row < 32 → col < 32 →
          readCell t.fb row col =
            if row = x.toNat ∧ y.toNat ≤ col ∧ col < y.toNat + n.toNat then s.drawColor else readCell s.fb row col) ∧
      ∃ t, Reaches k (hostTurn [word3 0x6 x y n] k s) t ∧ t.hCmd = none ∧
        ∀ row col, row < 32 → col < 32 →
          readCell t.fb row col =
            if col = x.toNat ∧ y.toNat ≤ row ∧ row < y.toNat + n.toNat then s.drawColor else readCell s.fb row col)

/-- spec/40_drawing_surface.md R127 (D14): a masked fill is a stencil composite. One cell step a 1 bit; where the bit is 0 the cell
keeps its value. -/
def Obligations.MaskedFillIsAStencil : Prop :=
  ∀ (s : State) (g : List Word), s.cfg.Wf → s.fb.wf → s.phase = Phase.idle → s.hCmd = none → s.initDone = true →
    s.dcValid = true → g.length = 32 →
    let k := 1 + stepsPerCell s.cfg * (allCells.filter fun c => (g.getD c.1 0).getLsbD c.2).length
    ∃ t, Reaches k (hostTurn (0x70000000 :: g) k s) t ∧ t.hCmd = none ∧
      ∀ row col, row < 32 → col < 32 →
        readCell t.fb row col = if (g.getD row 0).getLsbD col then s.drawColor else readCell s.fb row col

/-- spec/20_memory.md R77: `CLEAR` ends in the framebuffer that `SETCOLOR(0,0,0)` and `FILLSOLID` end in, and differs from them in
neither reading nor changing the draw colour. -/
def Obligations.ClearEndsAsABlackFill : Prop :=
  ∀ s : State, s.cfg.Wf → s.fb.wf → s.phase = Phase.idle → s.hCmd = none → s.initDone = true →
    let n := stepsPerCell s.cfg * 1024
    ∃ t u, Reaches (1 + n) (hostTurn [0x20000000] (1 + n) s) t ∧
      Reaches (2 + n) (hostTurn [0x10000000, 0x30000000] (2 + n) s) u ∧
      t.fb = u.fb ∧ t.drawColor = s.drawColor ∧ t.dcValid = s.dcValid ∧ u.drawColor = ⟨0, 0, 0⟩ ∧ u.dcValid = true

/-! ## Sequencer operations -/

/-- spec/60_exceptions.md R196 (the operation is spec/41_scanout_engine.md R151): `ENTRY` writes `PHASE` only, control goes to
the fixed place `TSTOP`, and the handler masks its own source there and opens it again at `TRELOAD`. -/
def Obligations.EntryTakesTheDisplayInterrupt : Prop :=
  (∀ s : State, s.phase = Phase.idle → s.tPend = true → s.initDone = true →
    exec .entry s = .next { s with phase := Phase.tstop }) ∧
  decodePhase Phase.tstop = some .tstop ∧ (∀ s t, exec .tstop s = .next t → t.tEn = false) ∧
  ∀ s t, exec .treload s = .next t → t.tEn = true

/-- spec/41_scanout_engine.md R152. From here until `TRELOAD` a tick changes nothing but the trace; a second expiry before
this step is merged into the pending one, and no tick moves the cursor. -/
def Obligations.TstopDisablesTheCountdown : Prop :=
  (∀ s : State, s.phase = Phase.tstop → exec .tstop s = .next { s with tEn := false, phase := Phase.tack }) ∧
  (∀ s : State, Inv s → 2 ≤ s.phase.toNat → s.phase.toNat ≤ 7 → tick s = { s with trace := s.trace ++ [.tick] }) ∧
  ∀ s : State, s.tPend = true →
    (tick s).tPend = true ∧ (tick s).rowPair = s.rowPair ∧ (tick s).bitPlane = s.bitPlane

/-- spec/41_scanout_engine.md R153. From here until `TRELOAD` no tick sets the flag again. Exactly one invocation is performed
per acknowledged expiry: along any run from the host context every `ENTRY` has its `TACK` and every `TACK` its `ADVANCE`, up
to the invocation in progress, and every latched expiry is acknowledged once, up to the one still pending. -/
def Obligations.TackClearsThePendingExpiry : Prop :=
  (∀ s : State, s.phase = Phase.tack → exec .tack s = .next { s with tPend := false, phase := Phase.rowsel }) ∧
  (∀ s : State, Inv s → 3 ≤ s.phase.toNat → s.phase.toNat ≤ 7 → s.tPend = false ∧ (tick s).tPend = false) ∧
  ∀ (σ : Nat → State) (n : Nat), RunUpTo σ n → Inv (σ 0) → (σ 0).phase = Phase.idle →
    engineSteps Phase.idle σ n =
      engineSteps Phase.tack σ n + (if (σ n).phase = Phase.tstop ∨ (σ n).phase = Phase.tack then 1 else 0) ∧
    engineSteps Phase.tack σ n = engineSteps Phase.advance σ n + (if 3 ≤ (σ n).phase.toNat then 1 else 0) ∧
    (if (σ 0).tPend then 1 else 0) + latchedExpiries σ n =
      engineSteps Phase.tack σ n + (if (σ n).tPend then 1 else 0)

/-- spec/41_scanout_engine.md R154 (D9): blank, then the select code of the row-pair. -/
def Obligations.RowselBlanksThenSelects : Prop :=
  ∀ s : State, s.phase = Phase.rowsel → s.cfg.Wf →
    ∃ v, s.cfg.rowSelectMap[s.rowPair.toNat]? = some v ∧ v < 2 ^ s.cfg.selW ∧
      exec .rowsel s = .next { s with
        blank := true, sel := v, trace := s.trace ++ [.pin (.blank true), .pin (.sel v)], colCnt := 0
        phase := Phase.shift }

/-- spec/41_scanout_engine.md R155, spec/60_exceptions.md R206 (D12, D30): the word of one column is put out and clocked into the panel;
column 31 ends the loop. -/
def Obligations.ShiftPutsOutOneColumn : Prop :=
  ∀ s : State, s.phase = Phase.shift →
    let w := colWord s.fb s.rowPair.toNat s.bitPlane.toNat s.colCnt.toNat
    (s.colCnt ≠ 31 → exec .shift s = .next { s with
      d := w, sck := false, pSr := s.pSr.tail ++ [w], trace := s.trace ++ [.pin (.data w), .pin .sck]
      colCnt := s.colCnt + 1 }) ∧
    (s.colCnt = 31 → exec .shift s = .next { s with
      d := w, sck := false, pSr := s.pSr.tail ++ [w], trace := s.trace ++ [.pin (.data w), .pin .sck]
      colCnt := 0, phase := Phase.latch })

/-- spec/41_scanout_engine.md R157, spec/60_exceptions.md R207: one latch strobe, and the panel copies its shift register to
its latch, which nothing else changes. It follows the `SHIFT` of the last column, and the panel is dark before and after it,
whatever its wiring. The panel is the spec's own reading (D30), held as notes/assumptions/28.md and 25.md say. -/
def Obligations.LatchStrobesOnce : Prop :=
  (∀ s : State, s.phase = Phase.latch → exec .latch s =
    .next { s with lat := false, pLatch := s.pSr, trace := s.trace ++ [.pin .lat], phase := Phase.unblank }) ∧
  (∀ s t : State, step s = .next t → s.phase ≠ Phase.latch → t.phase = Phase.latch →
    nextAgent s = .engine ∧ s.phase = Phase.shift ∧ s.colCnt = 31) ∧
  (∀ s t : State, step s = .next t → t.pLatch ≠ s.pLatch → nextAgent s = .engine ∧ s.phase = Phase.latch) ∧
  ∀ s t : State, Inv s → exec .latch s = .next t →
    ∀ wiring row col ch, lit wiring s row col ch = false ∧ lit wiring t row col ch = false

/-- spec/41_scanout_engine.md R158, spec/60_exceptions.md R208: blanking ends with its event, and the panel, dark until then,
shows the latched words on every row-pair wired to the code on `SEL`: bits 0 to 2 on the upper row, 3 to 5 on the lower. The
panel is the spec's own reading (D30); its wiring is an argument (notes/assumptions/25.md). -/
def Obligations.UnblankMakesTheRowPairVisible : Prop :=
  (∀ s : State, s.phase = Phase.unblank →
    exec .unblank s =
      .next { s with blank := false, trace := s.trace ++ [.pin (.blank false)], phase := Phase.treload }) ∧
  ∀ (wiring : List Nat) (s t : State), Inv s → exec .unblank s = .next t →
    (∀ row col ch, lit wiring s row col ch = false) ∧
    ∀ p c, p < 16 → c < 32 →
      (wiring[p]? = some t.sel →
        lit wiring t p c .red = (t.pLatch.getD c 0).getLsbD 0 ∧ lit wiring t p c .green = (t.pLatch.getD c 0).getLsbD 1 ∧
        lit wiring t p c .blue = (t.pLatch.getD c 0).getLsbD 2 ∧ lit wiring t (p + 16) c .red = (t.pLatch.getD c 0).getLsbD 3 ∧
        lit wiring t (p + 16) c .green = (t.pLatch.getD c 0).getLsbD 4 ∧
        lit wiring t (p + 16) c .blue = (t.pLatch.getD c 0).getLsbD 5) ∧
      (wiring[p]? ≠ some t.sel → ∀ ch, lit wiring t p c ch = false ∧ lit wiring t (p + 16) c ch = false)

/-- spec/41_scanout_engine.md R159 (D6): reload and count get the table entry of the plane just shown, and the countdown starts. -/
def Obligations.TreloadStartsThePlanesDuration : Prop :=
  ∀ s : State, s.phase = Phase.treload → s.cfg.Wf → s.bitPlane.toNat < s.cfg.bitDepth →
    ∃ v, s.cfg.bcmTable[s.bitPlane.toNat]? = some v ∧ 1 ≤ v ∧ v < 2 ^ s.cfg.timerW ∧
      exec .treload s = .next { s with tReload := v, tCount := v, tEn := true, phase := Phase.advance }

/-- spec/41_scanout_engine.md R160: the plane advances, and after the last plane the row-pair does, modulo 16; the host
context resumes, and an expiry that is pending again enables `ENTRY` at once. -/
def Obligations.AdvanceMovesTheCursorAndReturns : Prop :=
  ∀ s : State, s.phase = Phase.advance →
    (s.bitPlane.toNat + 1 = s.cfg.bitDepth →
      ∃ t, exec .advance s = .next t ∧ t.rowPair.toNat = (s.rowPair.toNat + 1) % 16 ∧
        t = { s with bitPlane := 0, rowPair := t.rowPair, phase := Phase.idle }) ∧
    (s.cfg.Wf → s.bitPlane.toNat + 1 < s.cfg.bitDepth →
      ∃ t, exec .advance s = .next t ∧ t.bitPlane.toNat = s.bitPlane.toNat + 1 ∧
        t = { s with bitPlane := t.bitPlane, phase := Phase.idle }) ∧
    ∀ t, exec .advance s = .next t →
      (s.hCmd ≠ none ∨ decodeHost s.port ≠ .incomplete → hostEnabled t = true) ∧
      (s.tPend = true → s.initDone = true → entryEnabled t = true)

/-- spec/41_scanout_engine.md R156, spec/30_encoding.md R98 (D10, D34): each of the six bits, for every plane. -/
def Obligations.ColumnWordTestsOneBitOfSixChannels : Prop :=
  ∀ (m : Memory) (p k c : Nat),
    let w := colWord m p k c
    w.getLsbD 0 = (readCell m p c).r.getLsbD k ∧ w.getLsbD 1 = (readCell m p c).g.getLsbD k ∧
    w.getLsbD 2 = (readCell m p c).b.getLsbD k ∧ w.getLsbD 3 = (readCell m (p + 16) c).r.getLsbD k ∧
    w.getLsbD 4 = (readCell m (p + 16) c).g.getLsbD k ∧ w.getLsbD 5 = (readCell m (p + 16) c).b.getLsbD k

/-- spec/10_state.md R42, spec/60_exceptions.md R196, R200: the frame of the nine sequencer operations. None writes the framebuffer, the
draw colour, the host's progress, the configuration or the port. -/
def Obligations.EngineNeverWritesHostState : Prop :=
  ∀ (i : Instr) (s t : State), i.isHost = false → exec i s = .next t →
    t.cfg = s.cfg ∧ (∀ a, t.fb.read a = s.fb.read a) ∧ t.drawColor = s.drawColor ∧ t.dcValid = s.dcValid ∧
    t.initDone = s.initDone ∧ t.hCmd = s.hCmd ∧ t.hIdx = s.hIdx ∧ t.hChan = s.hChan ∧ t.port = s.port

/-- spec/41_scanout_engine.md, the "Enabled when" of each rule, spec/30_encoding.md R97: an operation outside its phase is refused, and
so is an engine step with a phase code above 8 (notes/assumptions/13.md). -/
def Obligations.OperationsOutsideTheirPhaseAreRefused : Prop :=
  (∀ (i : Instr) (c : BitVec 4) (s : State), encode i = .phase c → s.phase ≠ c → exec i s = .refused (.notEnabled i)) ∧
  (∀ s : State, s.tPend = false ∨ s.initDone = false → exec .entry s = .refused (.notEnabled .entry)) ∧
  ∀ s : State, 9 ≤ s.phase.toNat → engineStep s = .refused (.phaseUnreachable s.phase)

/-! ## The timer -/

/-- spec/60_exceptions.md R202 (D6): one `Tick`, in each of its three cases. -/
def Obligations.TickCountsDownAndReloads : Prop :=
  ∀ s : State,
    (s.tEn = false → tick s = { s with trace := s.trace ++ [.tick] }) ∧
    (s.tEn = true → s.tCount ≤ 1 →
      tick s = { s with tPend := true, tCount := s.tReload, trace := s.trace ++ [.tick] }) ∧
    (s.tEn = true → 2 ≤ s.tCount → tick s = { s with tCount := s.tCount - 1, trace := s.trace ++ [.tick] })

/-- spec/60_exceptions.md R202, R204 (D6, D28): the expiry is latched at exactly the `N`-th tick after a load of `N`, and stays latched. -/
def Obligations.ExpiryIsLatchedAtTheLoadedTick : Prop :=
  ∀ (s : State) (n : Nat), s.tEn = true → s.tPend = false → 1 ≤ s.tCount →
    ((tick^[n] s).tPend = true ↔ s.tCount ≤ n)

/-! ## Whole invocations -/

/-- spec/41_scanout_engine.md R161: during an invocation the host is disabled and `ENTRY` is not enabled again; the engine,
chosen, always makes its step; and an invocation terminates in exactly 40 engine steps, whose phases and columns are a function
of their number alone and which leave the cursor alone until the last, `ADVANCE`. -/
def Obligations.InvocationRunsToCompletionInFortySteps : Prop :=
  (∀ s : State, s.phase ≠ Phase.idle →
    nextAgent s ≠ .host ∧ entryEnabled s = false ∧ decodePhase s.phase ≠ some .entry) ∧
  (∀ s : State, Inv s → s.phase ≠ Phase.idle → chosenAgent s = .engine → nextAgent s = .engine ∧ ∃ t, step s = .next t) ∧
  ∀ s : State, Inv s → entryEnabled s = true → ∀ n, n ≤ 40 →
    ∃ t, Reaches n (engineTurn n s) t ∧ t.phase = phaseAfter n ∧ t.colCnt.toNat = columnAfter n ∧
      (n < 40 → t.rowPair = s.rowPair ∧ t.bitPlane = s.bitPlane)

/-- spec/41_scanout_engine.md R162, with no tick inside: 40 engine steps are one transition, whose 68 pin events, registers, panel and
cursor are these, and which leaves everything else. -/
def Obligations.InvocationIsOneBigStep : Prop :=
  ∀ (s : State) (v n : Nat), s.cfg.Wf → s.phase = Phase.idle → s.tPend = true → s.initDone = true →
    s.pSr.length = 32 → s.cfg.rowSelectMap[s.rowPair.toNat]? = some v → s.cfg.bcmTable[s.bitPlane.toNat]? = some n →
    Reaches 40 (engineTurn 40 s) (afterInvocation v n s) ∧
    (invocationEvents v (rowWords s.fb s.rowPair.toNat s.bitPlane.toNat)).length = 68

/-- spec/41_scanout_engine.md R162, spec/20_memory.md R70, R71: the same under every interleaving. Whichever agents are chosen between
`ENTRY` and `ADVANCE`, the pin events, every register but the timer's count and pending flag, the panel, the framebuffer
and the host's progress come out as if nobody else had moved. -/
def Obligations.InvocationIsTheSameUnderAnyInterleaving : Prop :=
  ∀ (s : State) (v n : Nat) (mid tl : List Agent), s.cfg.Wf → s.phase = Phase.idle → s.tPend = true →
    s.initDone = true → s.pSr.length = 32 → s.cfg.rowSelectMap[s.rowPair.toNat]? = some v →
    s.cfg.bcmTable[s.bitPlane.toNat]? = some n → mid.count .engine = 38 →
    s.sched = .engine :: (mid ++ .engine :: tl) →
    ∃ t, Reaches (mid.length + 2) s t ∧
      t = { afterInvocation v n s with trace := t.trace, tCount := t.tCount, tPend := t.tPend, sched := tl } ∧
      pinEvents t.trace =
        pinEvents s.trace ++ invocationEvents v (rowWords s.fb s.rowPair.toNat s.bitPlane.toNat) ∧
      tickCount t.trace + 38 = tickCount s.trace + mid.length ∧ 1 ≤ t.tCount ∧ t.tCount ≤ n

/-- spec/41_scanout_engine.md R165, spec/60_exceptions.md R208 (D30), spec/70_reset_and_hazards.md R239: after an invocation
every row the panel has wired to the pair's code shows the pair's plane, upper rows the upper row and lower rows the lower, so
that a map that does not match the wiring lights the wrong rows; with the map injective and equal to the wiring (U13) those are
the pair's own two rows and every other row is dark. The wiring is an argument (notes/assumptions/25.md). -/
def Obligations.PanelShowsThePlaneOfTheRowPair : Prop :=
  ∀ (s : State) (v n : Nat), s.cfg.Wf → s.phase = Phase.idle → s.tPend = true → s.initDone = true →
    s.pSr.length = 32 → s.cfg.rowSelectMap[s.rowPair.toNat]? = some v → s.cfg.bcmTable[s.bitPlane.toNat]? = some n →
    ∃ t, Reaches 40 (engineTurn 40 s) t ∧
      (∀ (wiring : List Nat) (row col : Nat) (ch : Channel), row < 32 → col < 32 →
        lit wiring t row col ch =
          (decide (wiring[row % 16]? = some v) &&
            (channelOf (readCell s.fb (if row < 16 then s.rowPair.toNat else s.rowPair.toNat + 16) col) ch).getLsbD
              s.bitPlane.toNat)) ∧
      (s.cfg.rowSelectMap.Nodup → ∀ (row col : Nat) (ch : Channel), row < 32 → col < 32 →
        lit s.cfg.rowSelectMap t row col ch =
          (decide (row % 16 = s.rowPair.toNat) && (channelOf (readCell s.fb row col) ch).getLsbD s.bitPlane.toNat))

/-- spec/41_scanout_engine.md R163: the cursor's total cyclic order, along any finite run, whatever the host and the timer do between
and inside the invocations. -/
def Obligations.CursorVisitsEveryPlaneInOrder : Prop :=
  ∀ (σ : Nat → State) (n : Nat), RunUpTo σ n → (σ 0).initDone = true → (σ 0).rowPair = 0 → (σ 0).bitPlane = 0 →
    (σ n).rowPair.toNat = engineSteps Phase.advance σ n / (σ 0).cfg.bitDepth % 16 ∧
    (σ n).bitPlane.toNat = engineSteps Phase.advance σ n % (σ 0).cfg.bitDepth

/-- spec/10_state.md R23, R24: the cursor is private to the engine. Only `ADVANCE` moves it, and `INITDISPLAY` zeroes it. -/
def Obligations.OnlyAdvanceAndInitDisplayWriteTheCursor : Prop :=
  ∀ s s' : State, step s = .next s' →
    (s'.rowPair ≠ s.rowPair ∨ s'.bitPlane ≠ s.bitPlane) →
    (nextAgent s = .engine ∧ s.phase = Phase.advance) ∨
    (s.initDone = false ∧ s'.initDone = true ∧ s'.rowPair = 0 ∧ s'.bitPlane = 0)

/-- spec/20_memory.md R69, spec/41_scanout_engine.md R161: no cell changes while an invocation is in progress, and none but by a cell
write of the command in flight. -/
def Obligations.FramebufferChangesOnlyByACommandInFlight : Prop :=
  ∀ s s' : State, step s = .next s' → s'.fb ≠ s.fb →
    nextAgent s = .host ∧ s.phase = Phase.idle ∧ s'.phase = Phase.idle ∧
    ∃ c, s.hCmd = some c ∧ hostCell c (consumeChoice s) = .next s'

/-- spec/10_state.md R27, R28, R37, spec/42_system_ops.md R183: the configuration is constant, `INIT_DONE` and `DC_VALID` are never
cleared, and once set up only `TSTOP` stops the timer. -/
def Obligations.NoStepUndoesSetUp : Prop :=
  ∀ s s' : State, step s = .next s' →
    s'.cfg = s.cfg ∧ (s.initDone = true → s'.initDone = true) ∧ (s.dcValid = true → s'.dcValid = true) ∧
    (s.initDone = true → s.tEn = true → s'.tEn = false → nextAgent s = .engine ∧ s.phase = Phase.tstop)

/-- spec/40_drawing_surface.md R131: "`DRAW_COLOR` is changed by `SETCOLOR` only". -/
def Obligations.OnlySetColorChangesTheDrawColor : Prop :=
  ∀ s s' : State, step s = .next s' → s'.drawColor ≠ s.drawColor →
    nextAgent s = .host ∧ ∃ r g b rest, decodeHost s.port = .command (.setColor r g b) rest ∧ s'.drawColor = ⟨r, g, b⟩

/-- spec/41_scanout_engine.md R164, spec/10_state.md R42: pin events occur only at the engine's `ROWSEL`, `SHIFT`, `LATCH` and
`UNBLANK`; each line changes only in its phases (`SEL` blanked), or silently in the step that sets `INIT_DONE`. -/
def Obligations.PinsChangeOnlyInTheirPhases : Prop :=
  ∀ s s' : State, step s = .next s' →
    let setUp := s.initDone = false ∧ s'.initDone = true
    let at' := fun p => nextAgent s = .engine ∧ s.phase = p
    (pinEvents s'.trace ≠ pinEvents s.trace →
      at' Phase.rowsel ∨ at' Phase.shift ∨ at' Phase.latch ∨ at' Phase.unblank) ∧
    (s'.sel ≠ s.sel → (at' Phase.rowsel ∧ s'.blank = true) ∨ setUp) ∧
    (s'.blank ≠ s.blank → at' Phase.rowsel ∨ at' Phase.unblank ∨ setUp) ∧
    (s'.lat ≠ s.lat → at' Phase.latch ∨ setUp) ∧ (s'.sck ≠ s.sck → at' Phase.shift ∨ setUp) ∧
    (s'.d ≠ s.d → at' Phase.shift ∨ setUp)

/-- spec/41_scanout_engine.md R163, "The order does not depend on the framebuffer": what is in the framebuffer and on the way to the
panel never influences the control of the block, its timer, its cursor, its select and blanking lines, or the host. -/
def Obligations.PictureNeverInfluencesControl : Prop :=
  ∀ s t s' : State, withoutPicture s = withoutPicture t → step s = .next s' →
    ∃ t', step t = .next t' ∧ withoutPicture s' = withoutPicture t'

/-- spec/41_scanout_engine.md R166: from `TRELOAD` of plane `k` on, whatever the agents do, the panel stays lit with the same latched
words and the same select code, and the engine is not entered, until `BCM_TABLE[k]` ticks have passed. -/
def Obligations.PlaneStaysVisibleForItsDuration : Prop :=
  ∀ (r s t : State) (v n : Nat), s.cfg.Wf → s.initDone = true → s.blank = false → s.tPend = false →
    exec .treload r = .next s → r.cfg.bcmTable[r.bitPlane.toNat]? = some v →
    Reaches n s t → tickCount t.trace < tickCount s.trace + v →
    t.blank = false ∧ t.tPend = false ∧ t.pLatch = s.pLatch ∧ t.sel = s.sel ∧ pinEvents t.trace = pinEvents s.trace

/-- spec/41_scanout_engine.md R166, spec/60_exceptions.md R193, R202: as long as the engine has not moved, `ENTRY` is enabled once the count's
ticks have passed, whatever the host does meanwhile. -/
def Obligations.ExpiryReachesTheEngine : Prop :=
  ∀ (σ : Nat → State) (n : Nat), RunUpTo σ n → (∀ m, m < n → nextAgent (σ m) ≠ .engine) → (σ 0).phase = Phase.idle → (σ 0).initDone = true →
    (σ 0).tEn = true → (σ 0).tPend = false → 1 ≤ (σ 0).tCount →
    ((σ n).tPend = true ↔ tickCount (σ 0).trace + (σ 0).tCount ≤ tickCount (σ n).trace) ∧
    ((σ n).tPend = true → entryEnabled (σ n) = true)

/-- spec/41_scanout_engine.md R167: over a frame, from one pending `ENTRY` of cursor (0,0) to the next, whatever host and timer
do as long as the framebuffer stays the same, on a panel wired as an injective map says (U13, D30, notes/assumptions/25.md), an
LED is on for at least the durations of the planes in which its channel has a 1 bit; with no overhead for exactly that, and
under the default table (D2) for `BCM_BASE × v` of the frame's `16 × BCM_BASE × 255` ticks where `BIT_DEPTH = 8`, and for
the shown bits of `v` alone where it is less (D34). -/
def Obligations.BrightnessIsProportionalToIntensity : Prop :=
  ∀ (σ : Nat → State) (n row col : Nat) (ch : Channel), RunUpTo σ n → Inv (σ 0) →
    entryEnabled (σ 0) = true → (σ 0).rowPair = 0 → (σ 0).bitPlane = 0 →
    (∀ m, m ≤ n → (σ m).fb = (σ 0).fb) → entryEnabled (σ n) = true →
    engineSteps Phase.idle σ n = 16 * (σ 0).cfg.bitDepth → (σ 0).cfg.rowSelectMap.Nodup → row < 32 → col < 32 →
    let v := channelOf (readCell (σ 0).fb row col) ch
    let on := litTicks (σ 0).cfg.rowSelectMap row col ch σ n
    weightOf (σ 0).cfg v ≤ on ∧
    (NoOverhead σ n → on = weightOf (σ 0).cfg v) ∧
    (NoOverhead σ n → ∀ base, (σ 0).cfg.bcmTable = Config.defaultTable base (σ 0).cfg.bitDepth →
      on = base * (v.toNat % 2 ^ (σ 0).cfg.bitDepth) ∧
      tickCount (σ n).trace = tickCount (σ 0).trace + 16 * (base * (2 ^ (σ 0).cfg.bitDepth - 1)))

/-- spec/60_exceptions.md R197, spec/20_memory.md R65, R70 (D15, D16; the channel counter is notes/assumptions/16.md): a command
in flight is precise under any interleaving. Whatever ticks and invocations fall between its cell steps, after each of them
exactly the cells counted hold its colour, every host step was one write, none repeated or lost; so two runs of one command
that both complete, from equal framebuffers, end in equal framebuffers. -/
def Obligations.CommandIsPreciseUnderAnyInterleaving : Prop :=
  (∀ (σ : Nat → State) (n : Nat) (c : InFlight), RunUpTo σ n → Inv (σ 0) → (σ 0).hCmd = some c → (σ 0).hIdx = 0 →
    (σ 0).hChan = .red → (∀ m, m < n → (σ m).hCmd = some c) →
    (σ n).drawColor = (σ 0).drawColor ∧ (σ n).dcValid = (σ 0).dcValid ∧
    hostSteps σ n = stepsPerCell (σ 0).cfg * (σ n).hIdx + channelIndex (σ n).hChan ∧
    (σ n).hCmd = (if (σ n).hIdx = (cellCoords c.cmd).length then none else some c) ∧
    ((σ n).hChan = .red → ∀ row col, row < 32 → col < 32 →
      readCell (σ n).fb row col =
        if (row, col) ∈ (cellCoords c.cmd).take (σ n).hIdx then c.color else readCell (σ 0).fb row col)) ∧
  ∀ (σ τ : Nat → State) (m n : Nat) (c : InFlight), RunUpTo σ m → RunUpTo τ n → Inv (σ 0) → Inv (τ 0) →
    (σ 0).hIdx = 0 → (τ 0).hIdx = 0 → (σ 0).hChan = .red → (τ 0).hChan = .red → (σ 0).fb = (τ 0).fb →
    (∀ k, k < m → (σ k).hCmd = some c) → (∀ k, k < n → (τ k).hCmd = some c) →
    (σ 0).hCmd = some c → (τ 0).hCmd = some c → (σ m).hCmd = none → (τ n).hCmd = none → (σ m).fb = (τ n).fb
end

