-- ==== Sys2Proof/Laws/Config.lean ====
section
/-! SUPPORT. What a well-formed configuration gives: the clauses of `WF_CONFIG`, and table reads that succeed in range. -/

namespace Sys2Proof

theorem wf_clauses {c : Config} (h : c.Wf) :
    (1 ≤ c.bitDepth ∧ c.bitDepth ≤ 8) ∧ c.bcmTable.length = c.bitDepth ∧ c.tableInRange = true ∧
      c.tableNonDecreasing = true ∧ c.tableDoubles = true ∧ c.rowSelectMap.length = 16 ∧ c.mapInRange = true ∧
      (1 ≤ c.tmrInitReload ∧ c.tmrInitReload < 2 ^ c.timerW) := by
  unfold Config.Wf Config.failing at h
  repeat' (split at h; · cases h)
  simp_all

/-- The select code of any row-pair exists and fits its lines. -/
theorem rowSelect_some {c : Config} (h : c.Wf) (p : BitVec 4) :
    ∃ v, c.rowSelect p.toNat = some v ∧ v < 2 ^ c.selW := by
  obtain ⟨-, -, -, -, -, hl, hm, -⟩ := wf_clauses h
  have hp : p.toNat < c.rowSelectMap.length := by omega
  refine ⟨c.rowSelectMap[p.toNat], by simp [Config.rowSelect, hp], ?_⟩
  simp only [Config.mapInRange, List.all_eq_true, decide_eq_true_eq] at hm
  exact hm _ (List.getElem_mem hp)

/-- The duration of any plane exists and is a legal count. -/
theorem bcm_some {c : Config} (h : c.Wf) {k : Nat} (hk : k < c.bitDepth) :
    ∃ v, c.bcm k = some v ∧ 1 ≤ v ∧ v < 2 ^ c.timerW := by
  obtain ⟨-, hl, hm, -⟩ := wf_clauses h
  have hp : k < c.bcmTable.length := by omega
  refine ⟨c.bcmTable[k], by simp [Config.bcm, hp], ?_⟩
  simp only [Config.tableInRange, List.all_eq_true, decide_eq_true_eq, Bool.and_eq_true] at hm
  exact hm _ (List.getElem_mem hp)

/-- A table entry that exists is a legal count. -/
theorem bcm_range {c : Config} (h : c.Wf) {k v : Nat} (hv : c.bcm k = some v) : 1 ≤ v ∧ v < 2 ^ c.timerW := by
  obtain ⟨-, -, hm, -⟩ := wf_clauses h
  simp only [Config.tableInRange, List.all_eq_true, decide_eq_true_eq, Bool.and_eq_true] at hm
  exact hm _ (List.mem_of_getElem? hv)

end Sys2Proof
end

