-- ==== Sys2Proof/Laws/PerInstr.lean ====
section
/-! SUPPORT. Statements for all instructions, one lemma a constructor. Family `WordCount`: an instruction's encoding has as
many words as spec/opcode_table.json gives its row (33 for `DRAWMASKED`, 1 for any other host command, none for a sequencer
operation, whose code is not a word), and the first word says so by its `OP` alone (spec/30_encoding.md R94). -/

namespace Sys2Proof.Laws.WordCount

def Statement (i : Instr) : Prop :=
  i.wellFormed = true →
    (i.isHost = false → Machine.commandWords i = []) ∧
    (i.isHost = true → ∃ w ws, Machine.commandWords i = w :: ws ∧ (w :: ws).length = commandLength w)

/-- A field of the upper part of a concatenation. -/
theorem extract_append_upper {a b : Nat} (x : BitVec a) (y : BitVec b) (k n : Nat) :
    (x ++ y).extractLsb' (b + k) n = x.extractLsb' k n := by
  ext i hi
  simp only [BitVec.getElem_extractLsb', BitVec.getLsbD_append]
  rw [if_neg (by omega)]
  congr 1
  omega

/-- The upper part itself. -/
theorem extract_append_all {a b : Nat} (x : BitVec a) (y : BitVec b) : (x ++ y).extractLsb' b a = x := by
  rw [show (x ++ y).extractLsb' b a = x.extractLsb' 0 a from extract_append_upper x y 0 a]
  simp

/-- The top four bits of each format's word are its `OP`. -/
theorem op_word3 (op : BitVec 4) (x y z : Byte) : (word3 op x y z).extractLsb' 28 4 = op :=
  (extract_append_upper (op ++ 0#4) (x ++ (y ++ z)) 4 4).trans (extract_append_all op 0#4)

theorem op_word2 (op : BitVec 4) (y z : Byte) : (word2 op y z).extractLsb' 28 4 = op :=
  (extract_append_upper (op ++ 0#12) (y ++ z) 12 4).trans (extract_append_all op 0#12)

theorem op_word0 (op : BitVec 4) : (word0 op).extractLsb' 28 4 = op := extract_append_all op 0#28

/-- A command of one word whose `OP` is not 7. -/
theorem oneWord {i : Instr} {w : Word} (hw : Machine.commandWords i = [w]) (hh : i.isHost = true)
    (hop : w.extractLsb' 28 4 ≠ 7#4) : Statement i := fun _ =>
  ⟨fun h => (Bool.false_ne_true (h.symm.trans hh)).elim, fun _ => ⟨w, [], hw, by rw [commandLength, if_neg hop]; rfl⟩⟩

/-- A sequencer operation. -/
theorem noWord {i : Instr} (hw : Machine.commandWords i = []) (hh : i.isHost = false) : Statement i := fun _ =>
  ⟨fun _ => hw, fun h => (Bool.false_ne_true (hh.symm.trans h)).elim⟩

theorem setColor (r g b : Byte) : Statement (.setColor r g b) := oneWord rfl rfl (by rw [op_word3]; decide)
theorem clear : Statement .clear := oneWord rfl rfl (by decide)
theorem fillSolid : Statement .fillSolid := oneWord rfl rfl (by decide)
theorem drawPixel (row col : Byte) : Statement (.drawPixel row col) := oneWord rfl rfl (by rw [op_word2]; decide)
theorem drawRowRun (row startCol length : Byte) : Statement (.drawRowRun row startCol length) :=
  oneWord rfl rfl (by rw [op_word3]; decide)
theorem drawColRun (col startRow length : Byte) : Statement (.drawColRun col startRow length) :=
  oneWord rfl rfl (by rw [op_word3]; decide)
theorem drawMasked (grid : List Word) : Statement (.drawMasked grid) := fun h =>
  ⟨nofun, fun _ => ⟨word0 0x7, grid, rfl, by simpa [commandLength, op_word0, Instr.wellFormed] using h⟩⟩
theorem initDisplay : Statement .initDisplay := oneWord rfl rfl (by decide)
theorem schedEnable : Statement .schedEnable := oneWord rfl rfl (by decide)
theorem entry : Statement .entry := noWord rfl rfl
theorem tstop : Statement .tstop := noWord rfl rfl
theorem tack : Statement .tack := noWord rfl rfl
theorem rowsel : Statement .rowsel := noWord rfl rfl
theorem shift : Statement .shift := noWord rfl rfl
theorem latch : Statement .latch := noWord rfl rfl
theorem unblank : Statement .unblank := noWord rfl rfl
theorem treload : Statement .treload := noWord rfl rfl
theorem advance : Statement .advance := noWord rfl rfl

end Sys2Proof.Laws.WordCount
end

