-- ==== Sys2Proof/Laws/Decode.lean ====
section
/-! SUPPORT. The decoder on the words of each format: the operand fields come back, and the row is the one whose code the
word carries (spec/30_encoding.md R92, R93, R95). -/

namespace Sys2Proof

/-- A field of the lower part of a concatenation. -/
theorem extract_append_lower {a b : Nat} (x : BitVec a) (y : BitVec b) (k n : Nat) (h : k + n ≤ b) :
    (x ++ y).extractLsb' k n = y.extractLsb' k n := by
  ext i hi
  simp only [BitVec.getElem_extractLsb', BitVec.getLsbD_append]
  rw [if_pos (by omega)]

theorem operand_word3 (op : BitVec 4) (x y z : Byte) :
    operand (word3 op x y z) 16 = x ∧ operand (word3 op x y z) 8 = y ∧ operand (word3 op x y z) 0 = z := by
  unfold operand word3
  refine ⟨?_, ?_, ?_⟩
  · rw [extract_append_lower _ _ _ _ (by omega)]
    exact Laws.WordCount.extract_append_all x (y ++ z)
  · rw [extract_append_lower _ _ _ _ (by omega), extract_append_lower _ _ _ _ (by omega)]
    exact Laws.WordCount.extract_append_all y z
  · rw [extract_append_lower _ _ _ _ (by omega), extract_append_lower _ _ _ _ (by omega),
      extract_append_lower _ _ _ _ (by omega)]
    simp

theorem operand_word2 (op : BitVec 4) (y z : Byte) :
    operand (word2 op y z) 8 = y ∧ operand (word2 op y z) 0 = z := by
  unfold operand word2
  refine ⟨?_, ?_⟩
  · rw [extract_append_lower _ _ _ _ (by omega)]
    exact Laws.WordCount.extract_append_all y z
  · rw [extract_append_lower _ _ _ _ (by omega), extract_append_lower _ _ _ _ (by omega)]
    simp

/-- Two words that agree above the low `n` bits agree under every mask that has its low `n` bits clear. -/
theorem and_mask_congr {n : Nat} {v w m : Word} (hm : ∀ i, i < n → m.getLsbD i = false)
    (h : ∀ i, n ≤ i → i < 32 → v.getLsbD i = w.getLsbD i) : v &&& m = w &&& m := by
  apply BitVec.eq_of_getLsbD_eq
  intro i hi
  rw [BitVec.getLsbD_and, BitVec.getLsbD_and]
  by_cases hn : i < n
  · simp [hm i hn]
  · rw [h i (by omega) hi]

theorem extract_and (v w : Word) (lo n : Nat) :
    (v &&& w).extractLsb' lo n = v.extractLsb' lo n &&& w.extractLsb' lo n := by
  ext i hi
  simp [BitVec.getElem_extractLsb']

/-- Every row of the opcode map fixes `OP`: a selected row has the word's top four bits. -/
theorem selects_op {r : OpRow} (hr : r ∈ hostRows) {w : Word} (h : r.selects w = true) :
    w.extractLsb' 28 4 = r.code.extractLsb' 28 4 := by
  have hm : ∀ r ∈ hostRows, r.mask.extractLsb' 28 4 = BitVec.allOnes 4 := by decide
  have he : w &&& r.mask = r.code := by simpa [OpRow.selects] using h
  rw [← he, extract_and, hm r hr, BitVec.and_allOnes]

/-- No two rows share an `OP`. -/
theorem row_of_op {x y : OpRow} (hx : x ∈ hostRows) (hy : y ∈ hostRows)
    (h : x.code.extractLsb' 28 4 = y.code.extractLsb' 28 4) : x = y := by
  have key : ∀ x ∈ hostRows, ∀ y ∈ hostRows, x.code.extractLsb' 28 4 = y.code.extractLsb' 28 4 → x = y := by decide
  exact key x hx y hy h

/-- The row found is the selected row. -/
theorem hostOpOf_selects {r : OpRow} (hr : r ∈ hostRows) {w : Word} (h : r.selects w = true) : hostOpOf w = some r.op := by
  unfold hostOpOf
  cases hf : hostRows.find? fun r => r.selects w with
  | none => exact absurd h (List.find?_eq_none.mp hf r hr)
  | some x =>
    have hx := List.mem_of_find?_eq_some hf
    have hs : x.selects w = true := List.find?_some (p := fun r : OpRow => r.selects w) hf
    rw [row_of_op hx hr ((selects_op hx hs).symm.trans (selects_op hr h))]
    rfl

theorem and_word3 (op : BitVec 4) (x y z : Byte) : word3 op x y z &&& 0xFF000000#32 = op ++ 0#28 := by
  have h : word3 op x y z &&& 0xFF000000#32 = (op ++ 0#28) &&& 0xFF000000#32 := by
    refine and_mask_congr (n := 24) (by decide) fun i h1 h2 => ?_
    unfold word3
    have hlow : ¬ i < 8 + (8 + 8) := by omega
    simp only [BitVec.getLsbD_append, hlow, if_false]
    by_cases h3 : i < 28
    · rw [if_pos (by omega), if_pos h3]
      simp
    · rw [if_neg (by omega), if_neg h3]
      congr 1
  rw [h]
  clear h
  revert op
  decide

theorem and_word2 (op : BitVec 4) (y z : Byte) : word2 op y z &&& 0xFFFF0000#32 = op ++ 0#28 := by
  have h : word2 op y z &&& 0xFFFF0000#32 = (op ++ 0#28) &&& 0xFFFF0000#32 := by
    refine and_mask_congr (n := 16) (by decide) fun i h1 h2 => ?_
    unfold word2
    have hlow : ¬ i < 8 + 8 := by omega
    simp only [BitVec.getLsbD_append, hlow, if_false]
    by_cases h3 : i < 28
    · rw [if_pos (by omega), if_pos h3]
      simp
    · rw [if_neg (by omega), if_neg h3]
      congr 1
  rw [h]
  clear h
  revert op
  decide

/-- The words of the formats with operands select their rows. -/
theorem hostOpOf_setColor (r g b : Byte) : hostOpOf (word3 0x1 r g b) = some .setColor :=
  hostOpOf_selects (r := ⟨0x10000000, 0xFF000000, .setColor⟩) (by decide) (by simp [OpRow.selects, and_word3])

theorem hostOpOf_drawPixel (row col : Byte) : hostOpOf (word2 0x4 row col) = some .drawPixel :=
  hostOpOf_selects (r := ⟨0x40000000, 0xFFFF0000, .drawPixel⟩) (by decide) (by simp [OpRow.selects, and_word2])

theorem hostOpOf_drawRowRun (row c n : Byte) : hostOpOf (word3 0x5 row c n) = some .drawRowRun :=
  hostOpOf_selects (r := ⟨0x50000000, 0xFF000000, .drawRowRun⟩) (by decide) (by simp [OpRow.selects, and_word3])

theorem hostOpOf_drawColRun (col r n : Byte) : hostOpOf (word3 0x6 col r n) = some .drawColRun :=
  hostOpOf_selects (r := ⟨0x60000000, 0xFF000000, .drawColRun⟩) (by decide) (by simp [OpRow.selects, and_word3])

end Sys2Proof
end

