-- ==== Sys2Proof/Laws/Memory.lean ====
section
/-! SUPPORT. The laws of the framebuffer: read after write, the canonical form, and cells over channels. -/

namespace Sys2Proof.Machine

/-! ## One byte -/

@[simp] theorem read_nil (a : Nat) : Memory.read [] a = Memory.unlisted := rfl

theorem read_of_below (m : Memory) (a : Nat) (h : ∀ c ∈ m, a < c.1) : m.read a = Memory.unlisted := by
  induction m with
  | nil => rfl
  | cons c m ih =>
    obtain ⟨k, w⟩ := c
    have hk : a < k := h (k, w) (by simp)
    rw [Memory.read, if_neg (Nat.ne_of_lt hk)]
    exact ih fun c hc => h c (List.mem_cons_of_mem _ hc)

/-- Read after write, on a memory whose addresses rise. -/
theorem read_write (m : Memory) (h : m.Pairwise fun x y => x.1 < y.1) (a b : Nat) (v : Byte) :
    (m.write a v).read b = if b = a then v else m.read b := by
  induction m with
  | nil =>
    by_cases hv : v = Memory.unlisted <;> by_cases hb : b = a <;> simp [Memory.write, Memory.read, hv, hb]
  | cons c m ih =>
    obtain ⟨k, w⟩ := c
    have hlow : ∀ c ∈ m, k < c.1 := (List.pairwise_cons.mp h).1
    have ih := ih (List.pairwise_cons.mp h).2
    rw [Memory.write]
    by_cases hak : a < k
    · rw [if_pos hak]
      by_cases hv : v = Memory.unlisted
      · by_cases hb : b = a
        · subst hb
          rw [if_pos hv, if_pos rfl, Memory.read, if_neg (Nat.ne_of_lt hak), hv]
          exact read_of_below m b fun c hc => hak.trans (hlow c hc)
        · rw [if_pos hv, if_neg hb]
      · rw [if_neg hv, Memory.read]
    · by_cases hka : a = k
      · subst hka
        rw [if_neg hak, if_pos rfl]
        by_cases hv : v = Memory.unlisted
        · by_cases hb : b = a
          · subst hb
            rw [if_pos hv, if_pos rfl, hv]
            exact read_of_below m b hlow
          · rw [if_pos hv, if_neg hb, Memory.read, if_neg hb]
        · by_cases hb : b = a <;> simp [Memory.read, hv, hb]
      · rw [if_neg hak, if_neg hka, Memory.read, Memory.read, ih]
        by_cases hbk : b = k
        · subst hbk
          rw [if_pos rfl, if_pos rfl, if_neg fun h => hka h.symm]
        · rw [if_neg hbk, if_neg hbk]

theorem mem_write (m : Memory) (a : Nat) (v : Byte) (c : Host.Cell) (hc : c ∈ m.write a v) :
    c ∈ m ∨ (c = (a, v) ∧ v ≠ Memory.unlisted) := by
  induction m with
  | nil =>
    by_cases hv : v = Memory.unlisted <;> simp_all [Memory.write]
  | cons e m ih =>
    obtain ⟨k, w⟩ := e
    rw [Memory.write] at hc
    split at hc
    · split at hc <;> (simp_all; try tauto)
    · split at hc
      · split at hc <;> (simp_all; try tauto)
      · rcases List.mem_cons.mp hc with rfl | hc
        · simp
        · rcases ih hc with h | h
          · exact .inl (List.mem_cons_of_mem _ h)
          · exact .inr h

/-- A write inside the framebuffer keeps the canonical form. -/
theorem write_wf (m : Memory) (h : m.wf) (a : Nat) (v : Byte) (ha : a < Memory.size) : (m.write a v).wf := by
  refine ⟨?_, fun c hc => ?_⟩
  · have hp := h.1
    clear h
    induction m with
    | nil => by_cases hv : v = Memory.unlisted <;> simp [Memory.write, hv]
    | cons e m ih =>
      obtain ⟨k, w⟩ := e
      obtain ⟨hlow, hp'⟩ := List.pairwise_cons.mp hp
      rw [Memory.write]
      split
      · rename_i hak
        split
        · exact hp
        · refine List.pairwise_cons.mpr ⟨fun c hc => ?_, hp⟩
          rcases List.mem_cons.mp hc with rfl | hc
          · exact hak
          · exact hak.trans (hlow c hc)
      · split
        · rename_i hak hka
          subst hka
          split
          · exact hp'
          · exact List.pairwise_cons.mpr ⟨hlow, hp'⟩
        · rename_i hak hka
          refine List.pairwise_cons.mpr ⟨fun c hc => ?_, ih hp'⟩
          rcases mem_write m a v c hc with hc | ⟨rfl, -⟩
          · exact hlow c hc
          · exact Nat.lt_of_le_of_ne (Nat.le_of_not_lt hak) fun h => hka h.symm
  · rcases mem_write m a v c hc with hc | ⟨rfl, hv⟩
    · exact h.2 c hc
    · exact ⟨hv, ha⟩

/-- A listed byte is what its address reads as. -/
theorem read_of_mem {m : Memory} (h : m.Pairwise fun x y => x.1 < y.1) {c : Host.Cell} (hc : c ∈ m) : m.read c.1 = c.2 := by
  induction m with
  | nil => cases hc
  | cons e m ih =>
    obtain ⟨hlow, hp⟩ := List.pairwise_cons.mp h
    rw [Memory.read]
    rcases List.mem_cons.mp hc with rfl | hc
    · rw [if_pos rfl]
    · rw [if_neg (Nat.ne_of_gt (hlow c hc)), ih hp hc]

/-- Canonical memories that read alike are equal. -/
theorem Memory.ext_read {m m' : Memory} (h : m.wf) (h' : m'.wf) (hr : ∀ a, m.read a = m'.read a) : m = m' := by
  have sub : ∀ {m m' : Memory}, m.wf → m'.wf → (∀ a, m.read a = m'.read a) → ∀ c ∈ m, c ∈ m' := by
    intro m m' h h' hr c hc
    have hc' : m'.read c.1 = c.2 := (hr c.1).symm.trans (read_of_mem h.1 hc)
    by_contra hn
    apply (h.2 c hc).1
    rw [← hc']
    by_cases hk : ∃ e ∈ m', e.1 = c.1
    · obtain ⟨e, he, hec⟩ := hk
      have hv : e.2 = c.2 := by rw [← hc', ← hec, read_of_mem h'.1 he]
      exact absurd (Prod.ext hec hv ▸ he) hn
    · have none_reads : ∀ l : Memory, (∀ e ∈ l, e.1 ≠ c.1) → l.read c.1 = Memory.unlisted := by
        intro l hl
        induction l with
        | nil => rfl
        | cons e l ih =>
          rw [Memory.read, if_neg (hl e (by simp)).symm]
          exact ih fun e he => hl e (List.mem_cons_of_mem _ he)
      exact none_reads m' fun e he hec => hk ⟨e, he, hec⟩
  have nd : ∀ {m : Memory}, m.wf → m.Nodup := fun h =>
    List.Pairwise.imp (fun hlt => fun heq => absurd (congrArg Prod.fst heq) (Nat.ne_of_lt hlt)) h.1
  refine List.Perm.eq_of_pairwise (le := fun x y : Host.Cell => x.1 < y.1) ?_ h.1 h'.1
    ((List.perm_ext_iff_of_nodup (nd h) (nd h')).mpr fun c => ⟨sub h h' hr c, sub h' h (fun a => (hr a).symm) c⟩)
  intro a b _ _ hab hba
  exact absurd (hab.trans hba) (Nat.lt_irrefl _)

/-! ## Cells and channels -/

theorem channelIndex_lt (ch : Channel) : channelIndex ch < 3 := by cases ch <;> decide

theorem channelIndex_inj {x y : Channel} (h : channelIndex x = channelIndex y) : x = y := by
  cases x <;> cases y <;> simp_all [channelIndex]

/-- The address of a channel of a cell of the grid exists. -/
theorem channelAddr_lt (row col : Nat) (ch : Channel) (hr : row < 32) (hc : col < 32) :
    channelAddr row col ch < Memory.size := by
  have := channelIndex_lt ch
  unfold channelAddr Memory.size
  omega

/-- No two channels of the grid share an address. -/
theorem channelAddr_inj {r c r' c' : Nat} {x y : Channel} (hc : c < 32) (hc' : c' < 32)
    (h : channelAddr r c x = channelAddr r' c' y) : r = r' ∧ c = c' ∧ x = y := by
  have hx := channelIndex_lt x
  have hy := channelIndex_lt y
  unfold channelAddr at h
  exact ⟨by omega, by omega, channelIndex_inj (by omega)⟩

theorem writeChannel_wf (m : Memory) (h : m.wf) (r c : Nat) (ch : Channel) (v : Byte) (hr : r < 32) (hc : c < 32) :
    (writeChannel m r c ch v).wf := write_wf m h _ v (channelAddr_lt r c ch hr hc)

theorem writeCell_wf (m : Memory) (h : m.wf) (r c : Nat) (v : Color) (hr : r < 32) (hc : c < 32) :
    (writeCell m r c v).wf :=
  writeChannel_wf _ (writeChannel_wf _ (writeChannel_wf m h r c .red v.r hr hc) r c .green v.g hr hc) r c .blue v.b hr hc

/-- One channel after a channel write. -/
theorem read_writeChannel (m : Memory) (h : m.wf) (r c r' c' : Nat) (x y : Channel) (v : Byte) (hc : c < 32)
    (hc' : c' < 32) :
    (writeChannel m r c x v).read (channelAddr r' c' y) =
      if r' = r ∧ c' = c ∧ y = x then v else m.read (channelAddr r' c' y) := by
  rw [writeChannel, read_write m h.1]
  by_cases he : r' = r ∧ c' = c ∧ y = x
  · obtain ⟨rfl, rfl, rfl⟩ := he
    simp
  · rw [if_neg he, if_neg fun hh => he (channelAddr_inj hc' hc hh)]

/-- One cell after a cell write: "no other cell changes" (spec/40_drawing_surface.md R124). -/
theorem readCell_writeCell (m : Memory) (h : m.wf) (r c r' c' : Nat) (v : Color) (hr : r < 32) (hc : c < 32)
    (hc' : c' < 32) :
    readCell (writeCell m r c v) r' c' = if r' = r ∧ c' = c then v else readCell m r' c' := by
  have h1 := writeChannel_wf m h r c .red v.r hr hc
  have h2 := writeChannel_wf _ h1 r c .green v.g hr hc
  unfold readCell writeCell
  rw [read_writeChannel _ h2 _ _ _ _ _ _ _ hc hc', read_writeChannel _ h2 _ _ _ _ _ _ _ hc hc',
    read_writeChannel _ h2 _ _ _ _ _ _ _ hc hc', read_writeChannel _ h1 _ _ _ _ _ _ _ hc hc',
    read_writeChannel _ h1 _ _ _ _ _ _ _ hc hc', read_writeChannel _ h _ _ _ _ _ _ _ hc hc',
    read_writeChannel _ h1 _ _ _ _ _ _ _ hc hc', read_writeChannel _ h _ _ _ _ _ _ _ hc hc',
    read_writeChannel _ h _ _ _ _ _ _ _ hc hc']
  by_cases he : r' = r ∧ c' = c
  · obtain ⟨rfl, rfl⟩ := he
    simp
  · simp [he]

end Sys2Proof.Machine
end

