-- ==== Sys2Proof/Laws/State.lean ====
section
/-! SUPPORT. What each named update of State does to each field: one lemma a field, so that no proof unfolds a record update. -/

namespace Sys2Proof.Machine

/-! ## `emit (.blank b) s` -/

@[simp] theorem emit_blank_cfg (b : Bool) (s : State) : (emit (.blank b) s).cfg = s.cfg := rfl
@[simp] theorem emit_blank_fb (b : Bool) (s : State) : (emit (.blank b) s).fb = s.fb := rfl
@[simp] theorem emit_blank_rowPair (b : Bool) (s : State) : (emit (.blank b) s).rowPair = s.rowPair := rfl
@[simp] theorem emit_blank_bitPlane (b : Bool) (s : State) : (emit (.blank b) s).bitPlane = s.bitPlane := rfl
@[simp] theorem emit_blank_phase (b : Bool) (s : State) : (emit (.blank b) s).phase = s.phase := rfl
@[simp] theorem emit_blank_colCnt (b : Bool) (s : State) : (emit (.blank b) s).colCnt = s.colCnt := rfl
@[simp] theorem emit_blank_drawColor (b : Bool) (s : State) : (emit (.blank b) s).drawColor = s.drawColor := rfl
@[simp] theorem emit_blank_dcValid (b : Bool) (s : State) : (emit (.blank b) s).dcValid = s.dcValid := rfl
@[simp] theorem emit_blank_initDone (b : Bool) (s : State) : (emit (.blank b) s).initDone = s.initDone := rfl
@[simp] theorem emit_blank_tEn (b : Bool) (s : State) : (emit (.blank b) s).tEn = s.tEn := rfl
@[simp] theorem emit_blank_tReload (b : Bool) (s : State) : (emit (.blank b) s).tReload = s.tReload := rfl
@[simp] theorem emit_blank_tCount (b : Bool) (s : State) : (emit (.blank b) s).tCount = s.tCount := rfl
@[simp] theorem emit_blank_tPend (b : Bool) (s : State) : (emit (.blank b) s).tPend = s.tPend := rfl
@[simp] theorem emit_blank_sel (b : Bool) (s : State) : (emit (.blank b) s).sel = s.sel := rfl
@[simp] theorem emit_blank_blank (b : Bool) (s : State) : (emit (.blank b) s).blank = b := rfl
@[simp] theorem emit_blank_lat (b : Bool) (s : State) : (emit (.blank b) s).lat = s.lat := rfl
@[simp] theorem emit_blank_sck (b : Bool) (s : State) : (emit (.blank b) s).sck = s.sck := rfl
@[simp] theorem emit_blank_d (b : Bool) (s : State) : (emit (.blank b) s).d = s.d := rfl
@[simp] theorem emit_blank_hCmd (b : Bool) (s : State) : (emit (.blank b) s).hCmd = s.hCmd := rfl
@[simp] theorem emit_blank_hIdx (b : Bool) (s : State) : (emit (.blank b) s).hIdx = s.hIdx := rfl
@[simp] theorem emit_blank_hChan (b : Bool) (s : State) : (emit (.blank b) s).hChan = s.hChan := rfl
@[simp] theorem emit_blank_pSr (b : Bool) (s : State) : (emit (.blank b) s).pSr = s.pSr := rfl
@[simp] theorem emit_blank_pLatch (b : Bool) (s : State) : (emit (.blank b) s).pLatch = s.pLatch := rfl
@[simp] theorem emit_blank_trace (b : Bool) (s : State) : (emit (.blank b) s).trace = s.trace ++ [.pin (.blank b)] := rfl
@[simp] theorem emit_blank_port (b : Bool) (s : State) : (emit (.blank b) s).port = s.port := rfl
@[simp] theorem emit_blank_sched (b : Bool) (s : State) : (emit (.blank b) s).sched = s.sched := rfl
@[simp] theorem emit_blank_draws (b : Bool) (s : State) : (emit (.blank b) s).draws = s.draws := rfl

/-! ## `emit (.sel v) s` -/

@[simp] theorem emit_sel_cfg (v : Nat) (s : State) : (emit (.sel v) s).cfg = s.cfg := rfl
@[simp] theorem emit_sel_fb (v : Nat) (s : State) : (emit (.sel v) s).fb = s.fb := rfl
@[simp] theorem emit_sel_rowPair (v : Nat) (s : State) : (emit (.sel v) s).rowPair = s.rowPair := rfl
@[simp] theorem emit_sel_bitPlane (v : Nat) (s : State) : (emit (.sel v) s).bitPlane = s.bitPlane := rfl
@[simp] theorem emit_sel_phase (v : Nat) (s : State) : (emit (.sel v) s).phase = s.phase := rfl
@[simp] theorem emit_sel_colCnt (v : Nat) (s : State) : (emit (.sel v) s).colCnt = s.colCnt := rfl
@[simp] theorem emit_sel_drawColor (v : Nat) (s : State) : (emit (.sel v) s).drawColor = s.drawColor := rfl
@[simp] theorem emit_sel_dcValid (v : Nat) (s : State) : (emit (.sel v) s).dcValid = s.dcValid := rfl
@[simp] theorem emit_sel_initDone (v : Nat) (s : State) : (emit (.sel v) s).initDone = s.initDone := rfl
@[simp] theorem emit_sel_tEn (v : Nat) (s : State) : (emit (.sel v) s).tEn = s.tEn := rfl
@[simp] theorem emit_sel_tReload (v : Nat) (s : State) : (emit (.sel v) s).tReload = s.tReload := rfl
@[simp] theorem emit_sel_tCount (v : Nat) (s : State) : (emit (.sel v) s).tCount = s.tCount := rfl
@[simp] theorem emit_sel_tPend (v : Nat) (s : State) : (emit (.sel v) s).tPend = s.tPend := rfl
@[simp] theorem emit_sel_sel (v : Nat) (s : State) : (emit (.sel v) s).sel = v := rfl
@[simp] theorem emit_sel_blank (v : Nat) (s : State) : (emit (.sel v) s).blank = s.blank := rfl
@[simp] theorem emit_sel_lat (v : Nat) (s : State) : (emit (.sel v) s).lat = s.lat := rfl
@[simp] theorem emit_sel_sck (v : Nat) (s : State) : (emit (.sel v) s).sck = s.sck := rfl
@[simp] theorem emit_sel_d (v : Nat) (s : State) : (emit (.sel v) s).d = s.d := rfl
@[simp] theorem emit_sel_hCmd (v : Nat) (s : State) : (emit (.sel v) s).hCmd = s.hCmd := rfl
@[simp] theorem emit_sel_hIdx (v : Nat) (s : State) : (emit (.sel v) s).hIdx = s.hIdx := rfl
@[simp] theorem emit_sel_hChan (v : Nat) (s : State) : (emit (.sel v) s).hChan = s.hChan := rfl
@[simp] theorem emit_sel_pSr (v : Nat) (s : State) : (emit (.sel v) s).pSr = s.pSr := rfl
@[simp] theorem emit_sel_pLatch (v : Nat) (s : State) : (emit (.sel v) s).pLatch = s.pLatch := rfl
@[simp] theorem emit_sel_trace (v : Nat) (s : State) : (emit (.sel v) s).trace = s.trace ++ [.pin (.sel v)] := rfl
@[simp] theorem emit_sel_port (v : Nat) (s : State) : (emit (.sel v) s).port = s.port := rfl
@[simp] theorem emit_sel_sched (v : Nat) (s : State) : (emit (.sel v) s).sched = s.sched := rfl
@[simp] theorem emit_sel_draws (v : Nat) (s : State) : (emit (.sel v) s).draws = s.draws := rfl

/-! ## `emit (.data w) s` -/

@[simp] theorem emit_data_cfg (w : ColData) (s : State) : (emit (.data w) s).cfg = s.cfg := rfl
@[simp] theorem emit_data_fb (w : ColData) (s : State) : (emit (.data w) s).fb = s.fb := rfl
@[simp] theorem emit_data_rowPair (w : ColData) (s : State) : (emit (.data w) s).rowPair = s.rowPair := rfl
@[simp] theorem emit_data_bitPlane (w : ColData) (s : State) : (emit (.data w) s).bitPlane = s.bitPlane := rfl
@[simp] theorem emit_data_phase (w : ColData) (s : State) : (emit (.data w) s).phase = s.phase := rfl
@[simp] theorem emit_data_colCnt (w : ColData) (s : State) : (emit (.data w) s).colCnt = s.colCnt := rfl
@[simp] theorem emit_data_drawColor (w : ColData) (s : State) : (emit (.data w) s).drawColor = s.drawColor := rfl
@[simp] theorem emit_data_dcValid (w : ColData) (s : State) : (emit (.data w) s).dcValid = s.dcValid := rfl
@[simp] theorem emit_data_initDone (w : ColData) (s : State) : (emit (.data w) s).initDone = s.initDone := rfl
@[simp] theorem emit_data_tEn (w : ColData) (s : State) : (emit (.data w) s).tEn = s.tEn := rfl
@[simp] theorem emit_data_tReload (w : ColData) (s : State) : (emit (.data w) s).tReload = s.tReload := rfl
@[simp] theorem emit_data_tCount (w : ColData) (s : State) : (emit (.data w) s).tCount = s.tCount := rfl
@[simp] theorem emit_data_tPend (w : ColData) (s : State) : (emit (.data w) s).tPend = s.tPend := rfl
@[simp] theorem emit_data_sel (w : ColData) (s : State) : (emit (.data w) s).sel = s.sel := rfl
@[simp] theorem emit_data_blank (w : ColData) (s : State) : (emit (.data w) s).blank = s.blank := rfl
@[simp] theorem emit_data_lat (w : ColData) (s : State) : (emit (.data w) s).lat = s.lat := rfl
@[simp] theorem emit_data_sck (w : ColData) (s : State) : (emit (.data w) s).sck = s.sck := rfl
@[simp] theorem emit_data_d (w : ColData) (s : State) : (emit (.data w) s).d = w := rfl
@[simp] theorem emit_data_hCmd (w : ColData) (s : State) : (emit (.data w) s).hCmd = s.hCmd := rfl
@[simp] theorem emit_data_hIdx (w : ColData) (s : State) : (emit (.data w) s).hIdx = s.hIdx := rfl
@[simp] theorem emit_data_hChan (w : ColData) (s : State) : (emit (.data w) s).hChan = s.hChan := rfl
@[simp] theorem emit_data_pSr (w : ColData) (s : State) : (emit (.data w) s).pSr = s.pSr := rfl
@[simp] theorem emit_data_pLatch (w : ColData) (s : State) : (emit (.data w) s).pLatch = s.pLatch := rfl
@[simp] theorem emit_data_trace (w : ColData) (s : State) : (emit (.data w) s).trace = s.trace ++ [.pin (.data w)] := rfl
@[simp] theorem emit_data_port (w : ColData) (s : State) : (emit (.data w) s).port = s.port := rfl
@[simp] theorem emit_data_sched (w : ColData) (s : State) : (emit (.data w) s).sched = s.sched := rfl
@[simp] theorem emit_data_draws (w : ColData) (s : State) : (emit (.data w) s).draws = s.draws := rfl

/-! ## `emit .sck s` -/

@[simp] theorem emit_sck_cfg (s : State) : (emit .sck s).cfg = s.cfg := rfl
@[simp] theorem emit_sck_fb (s : State) : (emit .sck s).fb = s.fb := rfl
@[simp] theorem emit_sck_rowPair (s : State) : (emit .sck s).rowPair = s.rowPair := rfl
@[simp] theorem emit_sck_bitPlane (s : State) : (emit .sck s).bitPlane = s.bitPlane := rfl
@[simp] theorem emit_sck_phase (s : State) : (emit .sck s).phase = s.phase := rfl
@[simp] theorem emit_sck_colCnt (s : State) : (emit .sck s).colCnt = s.colCnt := rfl
@[simp] theorem emit_sck_drawColor (s : State) : (emit .sck s).drawColor = s.drawColor := rfl
@[simp] theorem emit_sck_dcValid (s : State) : (emit .sck s).dcValid = s.dcValid := rfl
@[simp] theorem emit_sck_initDone (s : State) : (emit .sck s).initDone = s.initDone := rfl
@[simp] theorem emit_sck_tEn (s : State) : (emit .sck s).tEn = s.tEn := rfl
@[simp] theorem emit_sck_tReload (s : State) : (emit .sck s).tReload = s.tReload := rfl
@[simp] theorem emit_sck_tCount (s : State) : (emit .sck s).tCount = s.tCount := rfl
@[simp] theorem emit_sck_tPend (s : State) : (emit .sck s).tPend = s.tPend := rfl
@[simp] theorem emit_sck_sel (s : State) : (emit .sck s).sel = s.sel := rfl
@[simp] theorem emit_sck_blank (s : State) : (emit .sck s).blank = s.blank := rfl
@[simp] theorem emit_sck_lat (s : State) : (emit .sck s).lat = s.lat := rfl
@[simp] theorem emit_sck_sck (s : State) : (emit .sck s).sck = false := rfl
@[simp] theorem emit_sck_d (s : State) : (emit .sck s).d = s.d := rfl
@[simp] theorem emit_sck_hCmd (s : State) : (emit .sck s).hCmd = s.hCmd := rfl
@[simp] theorem emit_sck_hIdx (s : State) : (emit .sck s).hIdx = s.hIdx := rfl
@[simp] theorem emit_sck_hChan (s : State) : (emit .sck s).hChan = s.hChan := rfl
@[simp] theorem emit_sck_pSr (s : State) : (emit .sck s).pSr = s.pSr.tail ++ [s.d] := rfl
@[simp] theorem emit_sck_pLatch (s : State) : (emit .sck s).pLatch = s.pLatch := rfl
@[simp] theorem emit_sck_trace (s : State) : (emit .sck s).trace = s.trace ++ [.pin .sck] := rfl
@[simp] theorem emit_sck_port (s : State) : (emit .sck s).port = s.port := rfl
@[simp] theorem emit_sck_sched (s : State) : (emit .sck s).sched = s.sched := rfl
@[simp] theorem emit_sck_draws (s : State) : (emit .sck s).draws = s.draws := rfl

/-! ## `emit .lat s` -/

@[simp] theorem emit_lat_cfg (s : State) : (emit .lat s).cfg = s.cfg := rfl
@[simp] theorem emit_lat_fb (s : State) : (emit .lat s).fb = s.fb := rfl
@[simp] theorem emit_lat_rowPair (s : State) : (emit .lat s).rowPair = s.rowPair := rfl
@[simp] theorem emit_lat_bitPlane (s : State) : (emit .lat s).bitPlane = s.bitPlane := rfl
@[simp] theorem emit_lat_phase (s : State) : (emit .lat s).phase = s.phase := rfl
@[simp] theorem emit_lat_colCnt (s : State) : (emit .lat s).colCnt = s.colCnt := rfl
@[simp] theorem emit_lat_drawColor (s : State) : (emit .lat s).drawColor = s.drawColor := rfl
@[simp] theorem emit_lat_dcValid (s : State) : (emit .lat s).dcValid = s.dcValid := rfl
@[simp] theorem emit_lat_initDone (s : State) : (emit .lat s).initDone = s.initDone := rfl
@[simp] theorem emit_lat_tEn (s : State) : (emit .lat s).tEn = s.tEn := rfl
@[simp] theorem emit_lat_tReload (s : State) : (emit .lat s).tReload = s.tReload := rfl
@[simp] theorem emit_lat_tCount (s : State) : (emit .lat s).tCount = s.tCount := rfl
@[simp] theorem emit_lat_tPend (s : State) : (emit .lat s).tPend = s.tPend := rfl
@[simp] theorem emit_lat_sel (s : State) : (emit .lat s).sel = s.sel := rfl
@[simp] theorem emit_lat_blank (s : State) : (emit .lat s).blank = s.blank := rfl
@[simp] theorem emit_lat_lat (s : State) : (emit .lat s).lat = false := rfl
@[simp] theorem emit_lat_sck (s : State) : (emit .lat s).sck = s.sck := rfl
@[simp] theorem emit_lat_d (s : State) : (emit .lat s).d = s.d := rfl
@[simp] theorem emit_lat_hCmd (s : State) : (emit .lat s).hCmd = s.hCmd := rfl
@[simp] theorem emit_lat_hIdx (s : State) : (emit .lat s).hIdx = s.hIdx := rfl
@[simp] theorem emit_lat_hChan (s : State) : (emit .lat s).hChan = s.hChan := rfl
@[simp] theorem emit_lat_pSr (s : State) : (emit .lat s).pSr = s.pSr := rfl
@[simp] theorem emit_lat_pLatch (s : State) : (emit .lat s).pLatch = s.pSr := rfl
@[simp] theorem emit_lat_trace (s : State) : (emit .lat s).trace = s.trace ++ [.pin .lat] := rfl
@[simp] theorem emit_lat_port (s : State) : (emit .lat s).port = s.port := rfl
@[simp] theorem emit_lat_sched (s : State) : (emit .lat s).sched = s.sched := rfl
@[simp] theorem emit_lat_draws (s : State) : (emit .lat s).draws = s.draws := rfl

/-! ## `tick s` -/

@[simp] theorem tick_cfg (s : State) : (tick s).cfg = s.cfg := rfl
@[simp] theorem tick_fb (s : State) : (tick s).fb = s.fb := rfl
@[simp] theorem tick_rowPair (s : State) : (tick s).rowPair = s.rowPair := rfl
@[simp] theorem tick_bitPlane (s : State) : (tick s).bitPlane = s.bitPlane := rfl
@[simp] theorem tick_phase (s : State) : (tick s).phase = s.phase := rfl
@[simp] theorem tick_colCnt (s : State) : (tick s).colCnt = s.colCnt := rfl
@[simp] theorem tick_drawColor (s : State) : (tick s).drawColor = s.drawColor := rfl
@[simp] theorem tick_dcValid (s : State) : (tick s).dcValid = s.dcValid := rfl
@[simp] theorem tick_initDone (s : State) : (tick s).initDone = s.initDone := rfl
@[simp] theorem tick_tEn (s : State) : (tick s).tEn = s.tEn := rfl
@[simp] theorem tick_tReload (s : State) : (tick s).tReload = s.tReload := rfl
@[simp] theorem tick_tCount (s : State) : (tick s).tCount = if expires s then s.tReload else if s.tEn then s.tCount - 1 else s.tCount := rfl
@[simp] theorem tick_tPend (s : State) : (tick s).tPend = (expires s || s.tPend) := rfl
@[simp] theorem tick_sel (s : State) : (tick s).sel = s.sel := rfl
@[simp] theorem tick_blank (s : State) : (tick s).blank = s.blank := rfl
@[simp] theorem tick_lat (s : State) : (tick s).lat = s.lat := rfl
@[simp] theorem tick_sck (s : State) : (tick s).sck = s.sck := rfl
@[simp] theorem tick_d (s : State) : (tick s).d = s.d := rfl
@[simp] theorem tick_hCmd (s : State) : (tick s).hCmd = s.hCmd := rfl
@[simp] theorem tick_hIdx (s : State) : (tick s).hIdx = s.hIdx := rfl
@[simp] theorem tick_hChan (s : State) : (tick s).hChan = s.hChan := rfl
@[simp] theorem tick_pSr (s : State) : (tick s).pSr = s.pSr := rfl
@[simp] theorem tick_pLatch (s : State) : (tick s).pLatch = s.pLatch := rfl
@[simp] theorem tick_trace (s : State) : (tick s).trace = s.trace ++ [.tick] := rfl
@[simp] theorem tick_port (s : State) : (tick s).port = s.port := rfl
@[simp] theorem tick_sched (s : State) : (tick s).sched = s.sched := rfl
@[simp] theorem tick_draws (s : State) : (tick s).draws = s.draws := rfl

/-! ## `loadTimer v s` -/

@[simp] theorem loadTimer_cfg (v : Nat) (s : State) : (loadTimer v s).cfg = s.cfg := rfl
@[simp] theorem loadTimer_fb (v : Nat) (s : State) : (loadTimer v s).fb = s.fb := rfl
@[simp] theorem loadTimer_rowPair (v : Nat) (s : State) : (loadTimer v s).rowPair = s.rowPair := rfl
@[simp] theorem loadTimer_bitPlane (v : Nat) (s : State) : (loadTimer v s).bitPlane = s.bitPlane := rfl
@[simp] theorem loadTimer_phase (v : Nat) (s : State) : (loadTimer v s).phase = s.phase := rfl
@[simp] theorem loadTimer_colCnt (v : Nat) (s : State) : (loadTimer v s).colCnt = s.colCnt := rfl
@[simp] theorem loadTimer_drawColor (v : Nat) (s : State) : (loadTimer v s).drawColor = s.drawColor := rfl
@[simp] theorem loadTimer_dcValid (v : Nat) (s : State) : (loadTimer v s).dcValid = s.dcValid := rfl
@[simp] theorem loadTimer_initDone (v : Nat) (s : State) : (loadTimer v s).initDone = s.initDone := rfl
@[simp] theorem loadTimer_tEn (v : Nat) (s : State) : (loadTimer v s).tEn = s.tEn := rfl
@[simp] theorem loadTimer_tReload (v : Nat) (s : State) : (loadTimer v s).tReload = v := rfl
@[simp] theorem loadTimer_tCount (v : Nat) (s : State) : (loadTimer v s).tCount = v := rfl
@[simp] theorem loadTimer_tPend (v : Nat) (s : State) : (loadTimer v s).tPend = s.tPend := rfl
@[simp] theorem loadTimer_sel (v : Nat) (s : State) : (loadTimer v s).sel = s.sel := rfl
@[simp] theorem loadTimer_blank (v : Nat) (s : State) : (loadTimer v s).blank = s.blank := rfl
@[simp] theorem loadTimer_lat (v : Nat) (s : State) : (loadTimer v s).lat = s.lat := rfl
@[simp] theorem loadTimer_sck (v : Nat) (s : State) : (loadTimer v s).sck = s.sck := rfl
@[simp] theorem loadTimer_d (v : Nat) (s : State) : (loadTimer v s).d = s.d := rfl
@[simp] theorem loadTimer_hCmd (v : Nat) (s : State) : (loadTimer v s).hCmd = s.hCmd := rfl
@[simp] theorem loadTimer_hIdx (v : Nat) (s : State) : (loadTimer v s).hIdx = s.hIdx := rfl
@[simp] theorem loadTimer_hChan (v : Nat) (s : State) : (loadTimer v s).hChan = s.hChan := rfl
@[simp] theorem loadTimer_pSr (v : Nat) (s : State) : (loadTimer v s).pSr = s.pSr := rfl
@[simp] theorem loadTimer_pLatch (v : Nat) (s : State) : (loadTimer v s).pLatch = s.pLatch := rfl
@[simp] theorem loadTimer_trace (v : Nat) (s : State) : (loadTimer v s).trace = s.trace := rfl
@[simp] theorem loadTimer_port (v : Nat) (s : State) : (loadTimer v s).port = s.port := rfl
@[simp] theorem loadTimer_sched (v : Nat) (s : State) : (loadTimer v s).sched = s.sched := rfl
@[simp] theorem loadTimer_draws (v : Nat) (s : State) : (loadTimer v s).draws = s.draws := rfl

/-! ## `takeDisplayInterrupt s` -/

@[simp] theorem takeDisplayInterrupt_cfg (s : State) : (takeDisplayInterrupt s).cfg = s.cfg := rfl
@[simp] theorem takeDisplayInterrupt_fb (s : State) : (takeDisplayInterrupt s).fb = s.fb := rfl
@[simp] theorem takeDisplayInterrupt_rowPair (s : State) : (takeDisplayInterrupt s).rowPair = s.rowPair := rfl
@[simp] theorem takeDisplayInterrupt_bitPlane (s : State) : (takeDisplayInterrupt s).bitPlane = s.bitPlane := rfl
@[simp] theorem takeDisplayInterrupt_phase (s : State) : (takeDisplayInterrupt s).phase = Phase.tstop := rfl
@[simp] theorem takeDisplayInterrupt_colCnt (s : State) : (takeDisplayInterrupt s).colCnt = s.colCnt := rfl
@[simp] theorem takeDisplayInterrupt_drawColor (s : State) : (takeDisplayInterrupt s).drawColor = s.drawColor := rfl
@[simp] theorem takeDisplayInterrupt_dcValid (s : State) : (takeDisplayInterrupt s).dcValid = s.dcValid := rfl
@[simp] theorem takeDisplayInterrupt_initDone (s : State) : (takeDisplayInterrupt s).initDone = s.initDone := rfl
@[simp] theorem takeDisplayInterrupt_tEn (s : State) : (takeDisplayInterrupt s).tEn = s.tEn := rfl
@[simp] theorem takeDisplayInterrupt_tReload (s : State) : (takeDisplayInterrupt s).tReload = s.tReload := rfl
@[simp] theorem takeDisplayInterrupt_tCount (s : State) : (takeDisplayInterrupt s).tCount = s.tCount := rfl
@[simp] theorem takeDisplayInterrupt_tPend (s : State) : (takeDisplayInterrupt s).tPend = s.tPend := rfl
@[simp] theorem takeDisplayInterrupt_sel (s : State) : (takeDisplayInterrupt s).sel = s.sel := rfl
@[simp] theorem takeDisplayInterrupt_blank (s : State) : (takeDisplayInterrupt s).blank = s.blank := rfl
@[simp] theorem takeDisplayInterrupt_lat (s : State) : (takeDisplayInterrupt s).lat = s.lat := rfl
@[simp] theorem takeDisplayInterrupt_sck (s : State) : (takeDisplayInterrupt s).sck = s.sck := rfl
@[simp] theorem takeDisplayInterrupt_d (s : State) : (takeDisplayInterrupt s).d = s.d := rfl
@[simp] theorem takeDisplayInterrupt_hCmd (s : State) : (takeDisplayInterrupt s).hCmd = s.hCmd := rfl
@[simp] theorem takeDisplayInterrupt_hIdx (s : State) : (takeDisplayInterrupt s).hIdx = s.hIdx := rfl
@[simp] theorem takeDisplayInterrupt_hChan (s : State) : (takeDisplayInterrupt s).hChan = s.hChan := rfl
@[simp] theorem takeDisplayInterrupt_pSr (s : State) : (takeDisplayInterrupt s).pSr = s.pSr := rfl
@[simp] theorem takeDisplayInterrupt_pLatch (s : State) : (takeDisplayInterrupt s).pLatch = s.pLatch := rfl
@[simp] theorem takeDisplayInterrupt_trace (s : State) : (takeDisplayInterrupt s).trace = s.trace := rfl
@[simp] theorem takeDisplayInterrupt_port (s : State) : (takeDisplayInterrupt s).port = s.port := rfl
@[simp] theorem takeDisplayInterrupt_sched (s : State) : (takeDisplayInterrupt s).sched = s.sched := rfl
@[simp] theorem takeDisplayInterrupt_draws (s : State) : (takeDisplayInterrupt s).draws = s.draws := rfl

/-! ## `returnToHost s` -/

@[simp] theorem returnToHost_cfg (s : State) : (returnToHost s).cfg = s.cfg := rfl
@[simp] theorem returnToHost_fb (s : State) : (returnToHost s).fb = s.fb := rfl
@[simp] theorem returnToHost_rowPair (s : State) : (returnToHost s).rowPair = s.rowPair := rfl
@[simp] theorem returnToHost_bitPlane (s : State) : (returnToHost s).bitPlane = s.bitPlane := rfl
@[simp] theorem returnToHost_phase (s : State) : (returnToHost s).phase = Phase.idle := rfl
@[simp] theorem returnToHost_colCnt (s : State) : (returnToHost s).colCnt = s.colCnt := rfl
@[simp] theorem returnToHost_drawColor (s : State) : (returnToHost s).drawColor = s.drawColor := rfl
@[simp] theorem returnToHost_dcValid (s : State) : (returnToHost s).dcValid = s.dcValid := rfl
@[simp] theorem returnToHost_initDone (s : State) : (returnToHost s).initDone = s.initDone := rfl
@[simp] theorem returnToHost_tEn (s : State) : (returnToHost s).tEn = s.tEn := rfl
@[simp] theorem returnToHost_tReload (s : State) : (returnToHost s).tReload = s.tReload := rfl
@[simp] theorem returnToHost_tCount (s : State) : (returnToHost s).tCount = s.tCount := rfl
@[simp] theorem returnToHost_tPend (s : State) : (returnToHost s).tPend = s.tPend := rfl
@[simp] theorem returnToHost_sel (s : State) : (returnToHost s).sel = s.sel := rfl
@[simp] theorem returnToHost_blank (s : State) : (returnToHost s).blank = s.blank := rfl
@[simp] theorem returnToHost_lat (s : State) : (returnToHost s).lat = s.lat := rfl
@[simp] theorem returnToHost_sck (s : State) : (returnToHost s).sck = s.sck := rfl
@[simp] theorem returnToHost_d (s : State) : (returnToHost s).d = s.d := rfl
@[simp] theorem returnToHost_hCmd (s : State) : (returnToHost s).hCmd = s.hCmd := rfl
@[simp] theorem returnToHost_hIdx (s : State) : (returnToHost s).hIdx = s.hIdx := rfl
@[simp] theorem returnToHost_hChan (s : State) : (returnToHost s).hChan = s.hChan := rfl
@[simp] theorem returnToHost_pSr (s : State) : (returnToHost s).pSr = s.pSr := rfl
@[simp] theorem returnToHost_pLatch (s : State) : (returnToHost s).pLatch = s.pLatch := rfl
@[simp] theorem returnToHost_trace (s : State) : (returnToHost s).trace = s.trace := rfl
@[simp] theorem returnToHost_port (s : State) : (returnToHost s).port = s.port := rfl
@[simp] theorem returnToHost_sched (s : State) : (returnToHost s).sched = s.sched := rfl
@[simp] theorem returnToHost_draws (s : State) : (returnToHost s).draws = s.draws := rfl

/-! ## `advanceCursor s` -/

@[simp] theorem advanceCursor_cfg (s : State) : (advanceCursor s).cfg = s.cfg := rfl
@[simp] theorem advanceCursor_fb (s : State) : (advanceCursor s).fb = s.fb := rfl
@[simp] theorem advanceCursor_rowPair (s : State) : (advanceCursor s).rowPair = if lastPlane s then s.rowPair + 1 else s.rowPair := rfl
@[simp] theorem advanceCursor_bitPlane (s : State) : (advanceCursor s).bitPlane = if lastPlane s then 0 else s.bitPlane + 1 := rfl
@[simp] theorem advanceCursor_phase (s : State) : (advanceCursor s).phase = s.phase := rfl
@[simp] theorem advanceCursor_colCnt (s : State) : (advanceCursor s).colCnt = s.colCnt := rfl
@[simp] theorem advanceCursor_drawColor (s : State) : (advanceCursor s).drawColor = s.drawColor := rfl
@[simp] theorem advanceCursor_dcValid (s : State) : (advanceCursor s).dcValid = s.dcValid := rfl
@[simp] theorem advanceCursor_initDone (s : State) : (advanceCursor s).initDone = s.initDone := rfl
@[simp] theorem advanceCursor_tEn (s : State) : (advanceCursor s).tEn = s.tEn := rfl
@[simp] theorem advanceCursor_tReload (s : State) : (advanceCursor s).tReload = s.tReload := rfl
@[simp] theorem advanceCursor_tCount (s : State) : (advanceCursor s).tCount = s.tCount := rfl
@[simp] theorem advanceCursor_tPend (s : State) : (advanceCursor s).tPend = s.tPend := rfl
@[simp] theorem advanceCursor_sel (s : State) : (advanceCursor s).sel = s.sel := rfl
@[simp] theorem advanceCursor_blank (s : State) : (advanceCursor s).blank = s.blank := rfl
@[simp] theorem advanceCursor_lat (s : State) : (advanceCursor s).lat = s.lat := rfl
@[simp] theorem advanceCursor_sck (s : State) : (advanceCursor s).sck = s.sck := rfl
@[simp] theorem advanceCursor_d (s : State) : (advanceCursor s).d = s.d := rfl
@[simp] theorem advanceCursor_hCmd (s : State) : (advanceCursor s).hCmd = s.hCmd := rfl
@[simp] theorem advanceCursor_hIdx (s : State) : (advanceCursor s).hIdx = s.hIdx := rfl
@[simp] theorem advanceCursor_hChan (s : State) : (advanceCursor s).hChan = s.hChan := rfl
@[simp] theorem advanceCursor_pSr (s : State) : (advanceCursor s).pSr = s.pSr := rfl
@[simp] theorem advanceCursor_pLatch (s : State) : (advanceCursor s).pLatch = s.pLatch := rfl
@[simp] theorem advanceCursor_trace (s : State) : (advanceCursor s).trace = s.trace := rfl
@[simp] theorem advanceCursor_port (s : State) : (advanceCursor s).port = s.port := rfl
@[simp] theorem advanceCursor_sched (s : State) : (advanceCursor s).sched = s.sched := rfl
@[simp] theorem advanceCursor_draws (s : State) : (advanceCursor s).draws = s.draws := rfl

/-! ## `startCommand i c s` -/

@[simp] theorem startCommand_cfg (i : Instr) (c : Color) (s : State) : (startCommand i c s).cfg = s.cfg := rfl
@[simp] theorem startCommand_fb (i : Instr) (c : Color) (s : State) : (startCommand i c s).fb = s.fb := rfl
@[simp] theorem startCommand_rowPair (i : Instr) (c : Color) (s : State) : (startCommand i c s).rowPair = s.rowPair := rfl
@[simp] theorem startCommand_bitPlane (i : Instr) (c : Color) (s : State) : (startCommand i c s).bitPlane = s.bitPlane := rfl
@[simp] theorem startCommand_phase (i : Instr) (c : Color) (s : State) : (startCommand i c s).phase = s.phase := rfl
@[simp] theorem startCommand_colCnt (i : Instr) (c : Color) (s : State) : (startCommand i c s).colCnt = s.colCnt := rfl
@[simp] theorem startCommand_drawColor (i : Instr) (c : Color) (s : State) : (startCommand i c s).drawColor = s.drawColor := rfl
@[simp] theorem startCommand_dcValid (i : Instr) (c : Color) (s : State) : (startCommand i c s).dcValid = s.dcValid := rfl
@[simp] theorem startCommand_initDone (i : Instr) (c : Color) (s : State) : (startCommand i c s).initDone = s.initDone := rfl
@[simp] theorem startCommand_tEn (i : Instr) (c : Color) (s : State) : (startCommand i c s).tEn = s.tEn := rfl
@[simp] theorem startCommand_tReload (i : Instr) (c : Color) (s : State) : (startCommand i c s).tReload = s.tReload := rfl
@[simp] theorem startCommand_tCount (i : Instr) (c : Color) (s : State) : (startCommand i c s).tCount = s.tCount := rfl
@[simp] theorem startCommand_tPend (i : Instr) (c : Color) (s : State) : (startCommand i c s).tPend = s.tPend := rfl
@[simp] theorem startCommand_sel (i : Instr) (c : Color) (s : State) : (startCommand i c s).sel = s.sel := rfl
@[simp] theorem startCommand_blank (i : Instr) (c : Color) (s : State) : (startCommand i c s).blank = s.blank := rfl
@[simp] theorem startCommand_lat (i : Instr) (c : Color) (s : State) : (startCommand i c s).lat = s.lat := rfl
@[simp] theorem startCommand_sck (i : Instr) (c : Color) (s : State) : (startCommand i c s).sck = s.sck := rfl
@[simp] theorem startCommand_d (i : Instr) (c : Color) (s : State) : (startCommand i c s).d = s.d := rfl
@[simp] theorem startCommand_hCmd (i : Instr) (c : Color) (s : State) : (startCommand i c s).hCmd = some ⟨i, c⟩ := rfl
@[simp] theorem startCommand_hIdx (i : Instr) (c : Color) (s : State) : (startCommand i c s).hIdx = 0 := rfl
@[simp] theorem startCommand_hChan (i : Instr) (c : Color) (s : State) : (startCommand i c s).hChan = .red := rfl
@[simp] theorem startCommand_pSr (i : Instr) (c : Color) (s : State) : (startCommand i c s).pSr = s.pSr := rfl
@[simp] theorem startCommand_pLatch (i : Instr) (c : Color) (s : State) : (startCommand i c s).pLatch = s.pLatch := rfl
@[simp] theorem startCommand_trace (i : Instr) (c : Color) (s : State) : (startCommand i c s).trace = s.trace := rfl
@[simp] theorem startCommand_port (i : Instr) (c : Color) (s : State) : (startCommand i c s).port = s.port := rfl
@[simp] theorem startCommand_sched (i : Instr) (c : Color) (s : State) : (startCommand i c s).sched = s.sched := rfl
@[simp] theorem startCommand_draws (i : Instr) (c : Color) (s : State) : (startCommand i c s).draws = s.draws := rfl

/-! ## `finishCell c s` -/

@[simp] theorem finishCell_cfg (c : InFlight) (s : State) : (finishCell c s).cfg = s.cfg := rfl
@[simp] theorem finishCell_fb (c : InFlight) (s : State) : (finishCell c s).fb = s.fb := rfl
@[simp] theorem finishCell_rowPair (c : InFlight) (s : State) : (finishCell c s).rowPair = s.rowPair := rfl
@[simp] theorem finishCell_bitPlane (c : InFlight) (s : State) : (finishCell c s).bitPlane = s.bitPlane := rfl
@[simp] theorem finishCell_phase (c : InFlight) (s : State) : (finishCell c s).phase = s.phase := rfl
@[simp] theorem finishCell_colCnt (c : InFlight) (s : State) : (finishCell c s).colCnt = s.colCnt := rfl
@[simp] theorem finishCell_drawColor (c : InFlight) (s : State) : (finishCell c s).drawColor = s.drawColor := rfl
@[simp] theorem finishCell_dcValid (c : InFlight) (s : State) : (finishCell c s).dcValid = s.dcValid := rfl
@[simp] theorem finishCell_initDone (c : InFlight) (s : State) : (finishCell c s).initDone = s.initDone := rfl
@[simp] theorem finishCell_tEn (c : InFlight) (s : State) : (finishCell c s).tEn = s.tEn := rfl
@[simp] theorem finishCell_tReload (c : InFlight) (s : State) : (finishCell c s).tReload = s.tReload := rfl
@[simp] theorem finishCell_tCount (c : InFlight) (s : State) : (finishCell c s).tCount = s.tCount := rfl
@[simp] theorem finishCell_tPend (c : InFlight) (s : State) : (finishCell c s).tPend = s.tPend := rfl
@[simp] theorem finishCell_sel (c : InFlight) (s : State) : (finishCell c s).sel = s.sel := rfl
@[simp] theorem finishCell_blank (c : InFlight) (s : State) : (finishCell c s).blank = s.blank := rfl
@[simp] theorem finishCell_lat (c : InFlight) (s : State) : (finishCell c s).lat = s.lat := rfl
@[simp] theorem finishCell_sck (c : InFlight) (s : State) : (finishCell c s).sck = s.sck := rfl
@[simp] theorem finishCell_d (c : InFlight) (s : State) : (finishCell c s).d = s.d := rfl
@[simp] theorem finishCell_hCmd (c : InFlight) (s : State) : (finishCell c s).hCmd = if s.hIdx + 1 < (cellCoords c.cmd).length then some c else none := rfl
@[simp] theorem finishCell_hIdx (c : InFlight) (s : State) : (finishCell c s).hIdx = s.hIdx + 1 := rfl
@[simp] theorem finishCell_hChan (c : InFlight) (s : State) : (finishCell c s).hChan = .red := rfl
@[simp] theorem finishCell_pSr (c : InFlight) (s : State) : (finishCell c s).pSr = s.pSr := rfl
@[simp] theorem finishCell_pLatch (c : InFlight) (s : State) : (finishCell c s).pLatch = s.pLatch := rfl
@[simp] theorem finishCell_trace (c : InFlight) (s : State) : (finishCell c s).trace = s.trace := rfl
@[simp] theorem finishCell_port (c : InFlight) (s : State) : (finishCell c s).port = s.port := rfl
@[simp] theorem finishCell_sched (c : InFlight) (s : State) : (finishCell c s).sched = s.sched := rfl
@[simp] theorem finishCell_draws (c : InFlight) (s : State) : (finishCell c s).draws = s.draws := rfl

/-! ## `setUpLines s` -/

@[simp] theorem setUpLines_cfg (s : State) : (setUpLines s).cfg = s.cfg := rfl
@[simp] theorem setUpLines_fb (s : State) : (setUpLines s).fb = s.fb := rfl
@[simp] theorem setUpLines_rowPair (s : State) : (setUpLines s).rowPair = s.rowPair := rfl
@[simp] theorem setUpLines_bitPlane (s : State) : (setUpLines s).bitPlane = s.bitPlane := rfl
@[simp] theorem setUpLines_phase (s : State) : (setUpLines s).phase = s.phase := rfl
@[simp] theorem setUpLines_colCnt (s : State) : (setUpLines s).colCnt = s.colCnt := rfl
@[simp] theorem setUpLines_drawColor (s : State) : (setUpLines s).drawColor = s.drawColor := rfl
@[simp] theorem setUpLines_dcValid (s : State) : (setUpLines s).dcValid = s.dcValid := rfl
@[simp] theorem setUpLines_initDone (s : State) : (setUpLines s).initDone = s.initDone := rfl
@[simp] theorem setUpLines_tEn (s : State) : (setUpLines s).tEn = s.tEn := rfl
@[simp] theorem setUpLines_tReload (s : State) : (setUpLines s).tReload = s.tReload := rfl
@[simp] theorem setUpLines_tCount (s : State) : (setUpLines s).tCount = s.tCount := rfl
@[simp] theorem setUpLines_tPend (s : State) : (setUpLines s).tPend = s.tPend := rfl
@[simp] theorem setUpLines_sel (s : State) : (setUpLines s).sel = 0 := rfl
@[simp] theorem setUpLines_blank (s : State) : (setUpLines s).blank = true := rfl
@[simp] theorem setUpLines_lat (s : State) : (setUpLines s).lat = false := rfl
@[simp] theorem setUpLines_sck (s : State) : (setUpLines s).sck = false := rfl
@[simp] theorem setUpLines_d (s : State) : (setUpLines s).d = 0 := rfl
@[simp] theorem setUpLines_hCmd (s : State) : (setUpLines s).hCmd = s.hCmd := rfl
@[simp] theorem setUpLines_hIdx (s : State) : (setUpLines s).hIdx = s.hIdx := rfl
@[simp] theorem setUpLines_hChan (s : State) : (setUpLines s).hChan = s.hChan := rfl
@[simp] theorem setUpLines_pSr (s : State) : (setUpLines s).pSr = s.pSr := rfl
@[simp] theorem setUpLines_pLatch (s : State) : (setUpLines s).pLatch = s.pLatch := rfl
@[simp] theorem setUpLines_trace (s : State) : (setUpLines s).trace = s.trace := rfl
@[simp] theorem setUpLines_port (s : State) : (setUpLines s).port = s.port := rfl
@[simp] theorem setUpLines_sched (s : State) : (setUpLines s).sched = s.sched := rfl
@[simp] theorem setUpLines_draws (s : State) : (setUpLines s).draws = s.draws := rfl

/-! ## `setUpTimer s` -/

@[simp] theorem setUpTimer_cfg (s : State) : (setUpTimer s).cfg = s.cfg := rfl
@[simp] theorem setUpTimer_fb (s : State) : (setUpTimer s).fb = s.fb := rfl
@[simp] theorem setUpTimer_rowPair (s : State) : (setUpTimer s).rowPair = s.rowPair := rfl
@[simp] theorem setUpTimer_bitPlane (s : State) : (setUpTimer s).bitPlane = s.bitPlane := rfl
@[simp] theorem setUpTimer_phase (s : State) : (setUpTimer s).phase = s.phase := rfl
@[simp] theorem setUpTimer_colCnt (s : State) : (setUpTimer s).colCnt = s.colCnt := rfl
@[simp] theorem setUpTimer_drawColor (s : State) : (setUpTimer s).drawColor = s.drawColor := rfl
@[simp] theorem setUpTimer_dcValid (s : State) : (setUpTimer s).dcValid = s.dcValid := rfl
@[simp] theorem setUpTimer_initDone (s : State) : (setUpTimer s).initDone = s.initDone := rfl
@[simp] theorem setUpTimer_tEn (s : State) : (setUpTimer s).tEn = false := rfl
@[simp] theorem setUpTimer_tReload (s : State) : (setUpTimer s).tReload = s.cfg.tmrInitReload := rfl
@[simp] theorem setUpTimer_tCount (s : State) : (setUpTimer s).tCount = s.cfg.tmrInitReload := rfl
@[simp] theorem setUpTimer_tPend (s : State) : (setUpTimer s).tPend = false := rfl
@[simp] theorem setUpTimer_sel (s : State) : (setUpTimer s).sel = s.sel := rfl
@[simp] theorem setUpTimer_blank (s : State) : (setUpTimer s).blank = s.blank := rfl
@[simp] theorem setUpTimer_lat (s : State) : (setUpTimer s).lat = s.lat := rfl
@[simp] theorem setUpTimer_sck (s : State) : (setUpTimer s).sck = s.sck := rfl
@[simp] theorem setUpTimer_d (s : State) : (setUpTimer s).d = s.d := rfl
@[simp] theorem setUpTimer_hCmd (s : State) : (setUpTimer s).hCmd = s.hCmd := rfl
@[simp] theorem setUpTimer_hIdx (s : State) : (setUpTimer s).hIdx = s.hIdx := rfl
@[simp] theorem setUpTimer_hChan (s : State) : (setUpTimer s).hChan = s.hChan := rfl
@[simp] theorem setUpTimer_pSr (s : State) : (setUpTimer s).pSr = s.pSr := rfl
@[simp] theorem setUpTimer_pLatch (s : State) : (setUpTimer s).pLatch = s.pLatch := rfl
@[simp] theorem setUpTimer_trace (s : State) : (setUpTimer s).trace = s.trace := rfl
@[simp] theorem setUpTimer_port (s : State) : (setUpTimer s).port = s.port := rfl
@[simp] theorem setUpTimer_sched (s : State) : (setUpTimer s).sched = s.sched := rfl
@[simp] theorem setUpTimer_draws (s : State) : (setUpTimer s).draws = s.draws := rfl

/-! ## `setUpSequencer s` -/

@[simp] theorem setUpSequencer_cfg (s : State) : (setUpSequencer s).cfg = s.cfg := rfl
@[simp] theorem setUpSequencer_fb (s : State) : (setUpSequencer s).fb = s.fb := rfl
@[simp] theorem setUpSequencer_rowPair (s : State) : (setUpSequencer s).rowPair = 0 := rfl
@[simp] theorem setUpSequencer_bitPlane (s : State) : (setUpSequencer s).bitPlane = 0 := rfl
@[simp] theorem setUpSequencer_phase (s : State) : (setUpSequencer s).phase = Phase.idle := rfl
@[simp] theorem setUpSequencer_colCnt (s : State) : (setUpSequencer s).colCnt = 0 := rfl
@[simp] theorem setUpSequencer_drawColor (s : State) : (setUpSequencer s).drawColor = s.drawColor := rfl
@[simp] theorem setUpSequencer_dcValid (s : State) : (setUpSequencer s).dcValid = s.dcValid := rfl
@[simp] theorem setUpSequencer_initDone (s : State) : (setUpSequencer s).initDone = s.initDone := rfl
@[simp] theorem setUpSequencer_tEn (s : State) : (setUpSequencer s).tEn = s.tEn := rfl
@[simp] theorem setUpSequencer_tReload (s : State) : (setUpSequencer s).tReload = s.tReload := rfl
@[simp] theorem setUpSequencer_tCount (s : State) : (setUpSequencer s).tCount = s.tCount := rfl
@[simp] theorem setUpSequencer_tPend (s : State) : (setUpSequencer s).tPend = s.tPend := rfl
@[simp] theorem setUpSequencer_sel (s : State) : (setUpSequencer s).sel = s.sel := rfl
@[simp] theorem setUpSequencer_blank (s : State) : (setUpSequencer s).blank = s.blank := rfl
@[simp] theorem setUpSequencer_lat (s : State) : (setUpSequencer s).lat = s.lat := rfl
@[simp] theorem setUpSequencer_sck (s : State) : (setUpSequencer s).sck = s.sck := rfl
@[simp] theorem setUpSequencer_d (s : State) : (setUpSequencer s).d = s.d := rfl
@[simp] theorem setUpSequencer_hCmd (s : State) : (setUpSequencer s).hCmd = s.hCmd := rfl
@[simp] theorem setUpSequencer_hIdx (s : State) : (setUpSequencer s).hIdx = s.hIdx := rfl
@[simp] theorem setUpSequencer_hChan (s : State) : (setUpSequencer s).hChan = s.hChan := rfl
@[simp] theorem setUpSequencer_pSr (s : State) : (setUpSequencer s).pSr = s.pSr := rfl
@[simp] theorem setUpSequencer_pLatch (s : State) : (setUpSequencer s).pLatch = s.pLatch := rfl
@[simp] theorem setUpSequencer_trace (s : State) : (setUpSequencer s).trace = s.trace := rfl
@[simp] theorem setUpSequencer_port (s : State) : (setUpSequencer s).port = s.port := rfl
@[simp] theorem setUpSequencer_sched (s : State) : (setUpSequencer s).sched = s.sched := rfl
@[simp] theorem setUpSequencer_draws (s : State) : (setUpSequencer s).draws = s.draws := rfl

/-! ## `consumeChoice s` -/

@[simp] theorem consumeChoice_cfg (s : State) : (consumeChoice s).cfg = s.cfg := rfl
@[simp] theorem consumeChoice_fb (s : State) : (consumeChoice s).fb = s.fb := rfl
@[simp] theorem consumeChoice_rowPair (s : State) : (consumeChoice s).rowPair = s.rowPair := rfl
@[simp] theorem consumeChoice_bitPlane (s : State) : (consumeChoice s).bitPlane = s.bitPlane := rfl
@[simp] theorem consumeChoice_phase (s : State) : (consumeChoice s).phase = s.phase := rfl
@[simp] theorem consumeChoice_colCnt (s : State) : (consumeChoice s).colCnt = s.colCnt := rfl
@[simp] theorem consumeChoice_drawColor (s : State) : (consumeChoice s).drawColor = s.drawColor := rfl
@[simp] theorem consumeChoice_dcValid (s : State) : (consumeChoice s).dcValid = s.dcValid := rfl
@[simp] theorem consumeChoice_initDone (s : State) : (consumeChoice s).initDone = s.initDone := rfl
@[simp] theorem consumeChoice_tEn (s : State) : (consumeChoice s).tEn = s.tEn := rfl
@[simp] theorem consumeChoice_tReload (s : State) : (consumeChoice s).tReload = s.tReload := rfl
@[simp] theorem consumeChoice_tCount (s : State) : (consumeChoice s).tCount = s.tCount := rfl
@[simp] theorem consumeChoice_tPend (s : State) : (consumeChoice s).tPend = s.tPend := rfl
@[simp] theorem consumeChoice_sel (s : State) : (consumeChoice s).sel = s.sel := rfl
@[simp] theorem consumeChoice_blank (s : State) : (consumeChoice s).blank = s.blank := rfl
@[simp] theorem consumeChoice_lat (s : State) : (consumeChoice s).lat = s.lat := rfl
@[simp] theorem consumeChoice_sck (s : State) : (consumeChoice s).sck = s.sck := rfl
@[simp] theorem consumeChoice_d (s : State) : (consumeChoice s).d = s.d := rfl
@[simp] theorem consumeChoice_hCmd (s : State) : (consumeChoice s).hCmd = s.hCmd := rfl
@[simp] theorem consumeChoice_hIdx (s : State) : (consumeChoice s).hIdx = s.hIdx := rfl
@[simp] theorem consumeChoice_hChan (s : State) : (consumeChoice s).hChan = s.hChan := rfl
@[simp] theorem consumeChoice_pSr (s : State) : (consumeChoice s).pSr = s.pSr := rfl
@[simp] theorem consumeChoice_pLatch (s : State) : (consumeChoice s).pLatch = s.pLatch := rfl
@[simp] theorem consumeChoice_trace (s : State) : (consumeChoice s).trace = s.trace := rfl
@[simp] theorem consumeChoice_port (s : State) : (consumeChoice s).port = s.port := rfl
@[simp] theorem consumeChoice_sched (s : State) : (consumeChoice s).sched = s.sched.tail := rfl
@[simp] theorem consumeChoice_draws (s : State) : (consumeChoice s).draws = if s.sched = [] then s.draws + 1 else s.draws := rfl

end Sys2Proof.Machine
end

