-- ==== Sys2Proof/Laws/Ops.lean ====
section
/-! SUPPORT. One lemma a shared operation: what it says when it answers a next state, and when it stops. -/

namespace Sys2Proof.Machine

/-! ## Guards -/

theorem inPhase_next {p : BitVec 4} {op : Instr} {s t : State} {k : Out} :
    inPhase p op s k = .next t ↔ s.phase = p ∧ k = .next t := by
  unfold inPhase
  split <;> simp_all

theorem inPhase_pos {p : BitVec 4} {op : Instr} {s : State} {k : Out} (h : s.phase = p) : inPhase p op s k = k :=
  if_pos h

theorem tableRead_next {e : Option Nat} {i : Nat} {k : Nat → Out} {t : State} :
    tableRead e i k = .next t ↔ ∃ v, e = some v ∧ k v = .next t := by
  cases e <;> simp [tableRead]

@[simp] theorem tableRead_some (v i : Nat) (k : Nat → Out) : tableRead (some v) i k = k v := rfl

theorem whenFree_next {i : Instr} {s t : State} {k : Out} :
    whenFree i s k = .next t ↔ (s.phase = Phase.idle ∧ s.hCmd = none) ∧ k = .next t := by
  unfold whenFree
  split <;> simp_all

theorem whenFree_pos {i : Instr} {s : State} {k : Out} (hp : s.phase = Phase.idle) (hc : s.hCmd = none) :
    whenFree i s k = k := if_pos ⟨hp, hc⟩

theorem afterInit_next {i : Instr} {s t : State} {k : Out} :
    afterInit i s k = .next t ↔ (s.phase = Phase.idle ∧ s.hCmd = none) ∧ s.initDone = true ∧ k = .next t := by
  unfold afterInit
  rw [whenFree_next]
  split <;> simp_all

theorem afterInit_pos {i : Instr} {s : State} {k : Out} (hp : s.phase = Phase.idle) (hc : s.hCmd = none)
    (hi : s.initDone = true) : afterInit i s k = k := by
  rw [afterInit, whenFree_pos hp hc, if_pos hi]

theorem startColored_next {i : Instr} {s t : State} :
    startColored i s = .next t ↔
      (cellCoords i = [] ∧ t = s) ∨ (cellCoords i ≠ [] ∧ s.dcValid = true ∧ t = startCommand i s.drawColor s) := by
  unfold startColored
  by_cases he : cellCoords i = []
  · rw [if_pos he, Host.Outcome.next.injEq]
    constructor
    · rintro rfl
      exact .inl ⟨he, rfl⟩
    · rintro (⟨-, rfl⟩ | ⟨hne, -⟩)
      · rfl
      · exact absurd he hne
  · rw [if_neg he]
    by_cases hd : s.dcValid = true
    · rw [if_pos hd, Host.Outcome.next.injEq]
      constructor
      · rintro rfl
        exact .inr ⟨he, hd, rfl⟩
      · rintro (⟨h, -⟩ | ⟨-, -, rfl⟩)
        · exact absurd h he
        · rfl
    · rw [if_neg hd]
      constructor
      · intro h
        cases h
      · rintro (⟨h, -⟩ | ⟨-, h, -⟩)
        · exact absurd h he
        · exact absurd h hd

theorem runInBounds_next {f a n r c : Nat} {k : Out} {t : State} :
    runInBounds f a n r c k = .next t ↔ f < 32 ∧ a + n ≤ 32 ∧ k = .next t := by
  unfold runInBounds
  split
  · simp only [reduceCtorEq, false_iff, not_and]
    omega
  · split
    · simp only [reduceCtorEq, false_iff, not_and]
      omega
    · simp only [show f < 32 by omega, show a + n ≤ 32 by omega, true_and]

/-! ## `HostCell` -/

theorem cellStep_cfg (c : InFlight) (r col : Nat) (s : State) : (cellStep c r col s).cfg = s.cfg := by
  unfold cellStep
  split
  · split <;> rfl
  · rfl

/-- Everything a cell step can do: one or three channel writes to its cell, and its own progress. -/
theorem cellStep_cases (c : InFlight) (r col : Nat) (s : State) :
    (s.cfg.channelTear = false ∧
      cellStep c r col s = finishCell c { s with fb := writeCell s.fb r col c.color }) ∨
    (s.cfg.channelTear = true ∧ s.hChan = .red ∧
      cellStep c r col s = { s with fb := writeChannel s.fb r col .red c.color.r, hChan := .green }) ∨
    (s.cfg.channelTear = true ∧ s.hChan = .green ∧
      cellStep c r col s = { s with fb := writeChannel s.fb r col .green c.color.g, hChan := .blue }) ∨
    (s.cfg.channelTear = true ∧ s.hChan = .blue ∧
      cellStep c r col s = finishCell c { s with fb := writeChannel s.fb r col .blue c.color.b }) := by
  unfold cellStep
  cases ht : s.cfg.channelTear <;> cases hch : s.hChan <;> simp

/-- A cell step of a cell of the grid keeps the framebuffer's canonical form. -/
theorem cellStep_fb_wf (c : InFlight) (r col : Nat) (s : State) (h : s.fb.wf) (hr : r < 32) (hc : col < 32) :
    (cellStep c r col s).fb.wf := by
  rcases cellStep_cases c r col s with ⟨-, e⟩ | ⟨-, -, e⟩ | ⟨-, -, e⟩ | ⟨-, -, e⟩ <;> rw [e]
  · exact writeCell_wf _ h _ _ _ hr hc
  all_goals exact writeChannel_wf _ h _ _ _ _ hr hc

theorem hostCell_next {c : InFlight} {s t : State} :
    hostCell c s = .next t ↔
      ∃ r col, (cellCoords c.cmd)[s.hIdx]? = some (r, col) ∧ r < 32 ∧ col < 32 ∧ t = cellStep c r col s := by
  unfold hostCell
  split
  · simp_all
  · rename_i r col h
    split
    · rename_i hb
      rw [Host.Outcome.next.injEq]
      constructor
      · rintro rfl
        exact ⟨r, col, h, hb.1, hb.2, rfl⟩
      · rintro ⟨r', c', h', -, -, rfl⟩
        rw [h] at h'
        obtain ⟨rfl, rfl⟩ := Prod.mk.inj (Option.some.inj h')
        rfl
    · rename_i hb
      simp only [reduceCtorEq, false_iff, not_exists, not_and]
      intro r' c' h' hr hc
      rw [h] at h'
      obtain ⟨rfl, rfl⟩ := Prod.mk.inj (Option.some.inj h')
      exact absurd ⟨hr, hc⟩ hb

/-! ## Choice of the agent -/

/-- The agent that moves has an enabled step. -/
theorem nextAgent_enabled (s : State) :
    (nextAgent s = .timer) ∨ (nextAgent s = .host ∧ hostEnabled s = true ∧ chosenAgent s = .host) ∨
      (nextAgent s = .engine ∧ engineEnabled s = true ∧ chosenAgent s = .engine) := by
  unfold nextAgent
  cases hh : hostEnabled s <;> cases he : engineEnabled s <;> cases hc : chosenAgent s <;> simp

theorem nextAgent_host {s : State} (hc : chosenAgent s = .host) (he : hostEnabled s = true) : nextAgent s = .host := by
  simp [nextAgent, hc, he]

theorem nextAgent_engine {s : State} (hc : chosenAgent s = .engine) (he : engineEnabled s = true) :
    nextAgent s = .engine := by
  simp [nextAgent, hc, he]

theorem nextAgent_timer {s : State} (hc : chosenAgent s = .timer) : nextAgent s = .timer := by
  simp [nextAgent, hc]

theorem hostEnabled_iff (s : State) :
    hostEnabled s = true ↔ s.phase = Phase.idle ∧ (s.hCmd.isSome = true ∨ decodeHost s.port ≠ .incomplete) := by
  simp [hostEnabled, portReady]

theorem engineEnabled_iff (s : State) :
    engineEnabled s = true ↔ s.phase ≠ Phase.idle ∨ (s.tPend = true ∧ s.initDone = true) := by
  by_cases h : s.phase = Phase.idle
  · simp [engineEnabled, entryEnabled, h]
  · simp only [engineEnabled, bne_iff_ne, ne_eq, h, not_false_eq_true, true_or, Bool.or_eq_true]

theorem entryEnabled_iff (s : State) :
    entryEnabled s = true ↔ s.phase = Phase.idle ∧ s.tPend = true ∧ s.initDone = true := by
  simp [entryEnabled, and_assoc]

end Sys2Proof.Machine
end

