-- ==== Sys2Proof/Laws/Exec.lean ====
section
/-! SUPPORT. What each meaning says when it answers a next state: the inversion lemmas the proofs about runs cite. -/

namespace Sys2Proof.Machine

theorem execSetColor_next {r g b : Byte} {s t : State} (h : exec (.setColor r g b) s = .next t) :
    (s.phase = Phase.idle ∧ s.hCmd = none) ∧ s.initDone = true ∧ t = { s with drawColor := ⟨r, g, b⟩, dcValid := true } := by
  obtain ⟨hf, hi, hk⟩ := afterInit_next.mp h
  exact ⟨hf, hi, (Host.Outcome.next.inj hk).symm⟩

theorem execClear_next {s t : State} (h : exec .clear s = .next t) :
    (s.phase = Phase.idle ∧ s.hCmd = none) ∧ s.initDone = true ∧ t = startCommand .clear zeroColor s := by
  obtain ⟨hf, hi, hk⟩ := afterInit_next.mp h
  exact ⟨hf, hi, (Host.Outcome.next.inj hk).symm⟩

theorem execFillSolid_next {s t : State} (h : exec .fillSolid s = .next t) :
    (s.phase = Phase.idle ∧ s.hCmd = none) ∧ s.initDone = true ∧ startColored .fillSolid s = .next t :=
  afterInit_next.mp h

theorem execDrawPixel_next {row col : Byte} {s t : State} (h : exec (.drawPixel row col) s = .next t) :
    (s.phase = Phase.idle ∧ s.hCmd = none) ∧ s.initDone = true ∧ (row.toNat < 32 ∧ col.toNat < 32) ∧
      startColored (.drawPixel row col) s = .next t := by
  obtain ⟨hf, hi, hk⟩ := afterInit_next.mp h
  split at hk
  · cases hk
  · exact ⟨hf, hi, by omega, hk⟩

theorem execDrawRowRun_next {row c n : Byte} {s t : State} (h : exec (.drawRowRun row c n) s = .next t) :
    (s.phase = Phase.idle ∧ s.hCmd = none) ∧ s.initDone = true ∧ (row.toNat < 32 ∧ c.toNat + n.toNat ≤ 32) ∧
      startColored (.drawRowRun row c n) s = .next t := by
  obtain ⟨hf, hi, hk⟩ := afterInit_next.mp h
  obtain ⟨h1, h2, hk⟩ := runInBounds_next.mp hk
  exact ⟨hf, hi, ⟨h1, h2⟩, hk⟩

theorem execDrawColRun_next {col r n : Byte} {s t : State} (h : exec (.drawColRun col r n) s = .next t) :
    (s.phase = Phase.idle ∧ s.hCmd = none) ∧ s.initDone = true ∧ (col.toNat < 32 ∧ r.toNat + n.toNat ≤ 32) ∧
      startColored (.drawColRun col r n) s = .next t := by
  obtain ⟨hf, hi, hk⟩ := afterInit_next.mp h
  obtain ⟨h1, h2, hk⟩ := runInBounds_next.mp hk
  exact ⟨hf, hi, ⟨h1, h2⟩, hk⟩

theorem execDrawMasked_next {g : List Word} {s t : State} (h : exec (.drawMasked g) s = .next t) :
    (s.phase = Phase.idle ∧ s.hCmd = none) ∧ s.initDone = true ∧ startColored (.drawMasked g) s = .next t :=
  afterInit_next.mp h

theorem execInitDisplay_next {s t : State} (h : exec .initDisplay s = .next t) :
    (s.phase = Phase.idle ∧ s.hCmd = none) ∧ s.initDone = false ∧
      t = { setUpSequencer (setUpTimer (setUpLines s)) with initDone := true } := by
  obtain ⟨hf, hk⟩ := whenFree_next.mp h
  split at hk
  · cases hk
  · rename_i hi
    exact ⟨hf, by simpa using hi, (Host.Outcome.next.inj hk).symm⟩

theorem execSchedEnable_next {s t : State} (h : exec .schedEnable s = .next t) :
    (s.phase = Phase.idle ∧ s.hCmd = none) ∧ s.initDone = true ∧ t = { s with tEn := true } := by
  obtain ⟨hf, hi, hk⟩ := afterInit_next.mp h
  exact ⟨hf, hi, (Host.Outcome.next.inj hk).symm⟩

theorem execEntry_next {s t : State} (h : exec .entry s = .next t) :
    entryEnabled s = true ∧ t = takeDisplayInterrupt s := by
  change (if entryEnabled s then _ else _) = _ at h
  split at h
  · exact ⟨‹_›, (Host.Outcome.next.inj h).symm⟩
  · cases h

theorem execTstop_next {s t : State} (h : exec .tstop s = .next t) :
    s.phase = Phase.tstop ∧ t = { s with tEn := false, phase := Phase.tack } := by
  obtain ⟨hp, hk⟩ := inPhase_next.mp h
  exact ⟨hp, (Host.Outcome.next.inj hk).symm⟩

theorem execTack_next {s t : State} (h : exec .tack s = .next t) :
    s.phase = Phase.tack ∧ t = { s with tPend := false, phase := Phase.rowsel } := by
  obtain ⟨hp, hk⟩ := inPhase_next.mp h
  exact ⟨hp, (Host.Outcome.next.inj hk).symm⟩

theorem execRowsel_next {s t : State} (h : exec .rowsel s = .next t) :
    s.phase = Phase.rowsel ∧ ∃ v, s.cfg.rowSelect s.rowPair.toNat = some v ∧
      t = { emit (.sel v) (emit (.blank true) s) with colCnt := 0, phase := Phase.shift } := by
  obtain ⟨hp, hk⟩ := inPhase_next.mp h
  obtain ⟨v, hv, hk⟩ := tableRead_next.mp hk
  exact ⟨hp, v, hv, (Host.Outcome.next.inj hk).symm⟩

theorem execShift_next {s t : State} (h : exec .shift s = .next t) :
    s.phase = Phase.shift ∧
      t = { emit .sck (emit (.data (colWord s.fb s.rowPair.toNat s.bitPlane.toNat s.colCnt.toNat)) s) with
        colCnt := if lastColumn s then 0 else s.colCnt + 1
        phase := if lastColumn s then Phase.latch else Phase.shift } := by
  obtain ⟨hp, hk⟩ := inPhase_next.mp h
  exact ⟨hp, (Host.Outcome.next.inj hk).symm⟩

theorem execLatch_next {s t : State} (h : exec .latch s = .next t) :
    s.phase = Phase.latch ∧ t = { emit .lat s with phase := Phase.unblank } := by
  obtain ⟨hp, hk⟩ := inPhase_next.mp h
  exact ⟨hp, (Host.Outcome.next.inj hk).symm⟩

theorem execUnblank_next {s t : State} (h : exec .unblank s = .next t) :
    s.phase = Phase.unblank ∧ t = { emit (.blank false) s with phase := Phase.treload } := by
  obtain ⟨hp, hk⟩ := inPhase_next.mp h
  exact ⟨hp, (Host.Outcome.next.inj hk).symm⟩

theorem execTreload_next {s t : State} (h : exec .treload s = .next t) :
    s.phase = Phase.treload ∧ ∃ v, s.cfg.bcm s.bitPlane.toNat = some v ∧
      t = { loadTimer v s with tEn := true, phase := Phase.advance } := by
  obtain ⟨hp, hk⟩ := inPhase_next.mp h
  obtain ⟨v, hv, hk⟩ := tableRead_next.mp hk
  exact ⟨hp, v, hv, (Host.Outcome.next.inj hk).symm⟩

theorem execAdvance_next {s t : State} (h : exec .advance s = .next t) :
    s.phase = Phase.advance ∧ t = returnToHost (advanceCursor s) := by
  obtain ⟨hp, hk⟩ := inPhase_next.mp h
  exact ⟨hp, (Host.Outcome.next.inj hk).symm⟩

/-! ## The cell list of an accepted command lies in the grid -/

theorem mem_allCells {p : Nat × Nat} : p ∈ allCells ↔ p.1 < 32 ∧ p.2 < 32 := by
  obtain ⟨r, c⟩ := p
  simp only [allCells, List.mem_map, List.mem_range, Prod.mk.injEq]
  constructor
  · rintro ⟨a, ha, rfl, rfl⟩
    omega
  · rintro ⟨hr, hc⟩
    exact ⟨r * 32 + c, by omega, by omega, by omega⟩

theorem length_allCells : allCells.length = 1024 := by simp [allCells]

theorem allCells_ne_nil : allCells ≠ [] := by
  intro h
  simpa [h] using length_allCells

theorem mem_drawMasked {g : List Word} {p : Nat × Nat} :
    p ∈ cellCoords (.drawMasked g) ↔ (p.1 < 32 ∧ p.2 < 32) ∧ maskBit g p.1 p.2 = true := by
  simp only [cellCoords, List.mem_filter, mem_allCells]

theorem mem_drawRowRun {row c n : Byte} {p : Nat × Nat} :
    p ∈ cellCoords (.drawRowRun row c n) ↔ p.1 = row.toNat ∧ c.toNat ≤ p.2 ∧ p.2 < c.toNat + n.toNat := by
  obtain ⟨x, y⟩ := p
  simp only [cellCoords, List.mem_map, List.mem_range, Prod.mk.injEq]
  constructor
  · rintro ⟨i, hi, rfl, rfl⟩
    omega
  · rintro ⟨rfl, h1, h2⟩
    exact ⟨y - c.toNat, by omega, rfl, by omega⟩

theorem mem_drawColRun {col r n : Byte} {p : Nat × Nat} :
    p ∈ cellCoords (.drawColRun col r n) ↔ p.2 = col.toNat ∧ r.toNat ≤ p.1 ∧ p.1 < r.toNat + n.toNat := by
  obtain ⟨x, y⟩ := p
  simp only [cellCoords, List.mem_map, List.mem_range, Prod.mk.injEq]
  constructor
  · rintro ⟨i, hi, rfl, rfl⟩
    omega
  · rintro ⟨rfl, h1, h2⟩
    exact ⟨x - r.toNat, by omega, by omega, rfl⟩

/-! ## What an issued command leaves alone -/

/-- A drawing command's issue changes the draw colour (`SETCOLOR`) or starts a command, and nothing else. -/
theorem exec_drawing_next {i : Instr} {s t : State} (hi : i.isHost = true) (h1 : i ≠ .initDisplay) (h2 : i ≠ .schedEnable)
    (h : exec i s = .next t) :
    (s.phase = Phase.idle ∧ s.hCmd = none) ∧ s.initDone = true ∧
      ((∃ r g b, i = .setColor r g b ∧ t = { s with drawColor := ⟨r, g, b⟩, dcValid := true }) ∨
        (cellCoords i = [] ∧ t = s) ∨
        (cellCoords i ≠ [] ∧ (∀ p ∈ cellCoords i, p.1 < 32 ∧ p.2 < 32) ∧
          ∃ c, t = startCommand i c s ∧ (c = zeroColor ∧ i = .clear ∨ c = s.drawColor ∧ s.dcValid = true))) := by
  have key : ∀ {j : Instr}, (∀ p ∈ cellCoords j, p.1 < 32 ∧ p.2 < 32) → startColored j s = .next t →
      (cellCoords j = [] ∧ t = s) ∨ (cellCoords j ≠ [] ∧ (∀ p ∈ cellCoords j, p.1 < 32 ∧ p.2 < 32) ∧
          ∃ c, t = startCommand j c s ∧ (c = zeroColor ∧ j = .clear ∨ c = s.drawColor ∧ s.dcValid = true)) := by
    intro j hb hj
    rcases startColored_next.mp hj with h | ⟨hne, hd, ht⟩
    · exact .inl h
    · exact .inr ⟨hne, hb, _, ht, .inr ⟨rfl, hd⟩⟩
  cases i with
  | setColor r g b =>
    obtain ⟨hf, hd, ht⟩ := execSetColor_next h
    exact ⟨hf, hd, .inl ⟨r, g, b, rfl, ht⟩⟩
  | clear =>
    obtain ⟨hf, hd, ht⟩ := execClear_next h
    exact ⟨hf, hd, .inr (.inr ⟨allCells_ne_nil, fun p hp => mem_allCells.mp hp, _, ht, .inl ⟨rfl, rfl⟩⟩)⟩
  | fillSolid =>
    obtain ⟨hf, hd, ht⟩ := execFillSolid_next h
    exact ⟨hf, hd, .inr (key (fun p hp => mem_allCells.mp hp) ht)⟩
  | drawPixel row col =>
    obtain ⟨hf, hd, hb, ht⟩ := execDrawPixel_next h
    exact ⟨hf, hd, .inr (key (by simpa [cellCoords] using hb) ht)⟩
  | drawRowRun row c n =>
    obtain ⟨hf, hd, hb, ht⟩ := execDrawRowRun_next h
    refine ⟨hf, hd, .inr (key (fun p hp => ?_) ht)⟩
    have := mem_drawRowRun.mp hp
    omega
  | drawColRun col r n =>
    obtain ⟨hf, hd, hb, ht⟩ := execDrawColRun_next h
    refine ⟨hf, hd, .inr (key (fun p hp => ?_) ht)⟩
    have := mem_drawColRun.mp hp
    omega
  | drawMasked g =>
    obtain ⟨hf, hd, ht⟩ := execDrawMasked_next h
    exact ⟨hf, hd, .inr (key (fun p hp => (mem_drawMasked.mp hp).1) ht)⟩
  | initDisplay => exact absurd rfl h1
  | schedEnable => exact absurd rfl h2
  | entry => cases hi
  | tstop => cases hi
  | tack => cases hi
  | rowsel => cases hi
  | shift => cases hi
  | latch => cases hi
  | unblank => cases hi
  | treload => cases hi
  | advance => cases hi

/-- Everything the issue of a host command can do. -/
theorem exec_host_next {i : Instr} {s t : State} (hi : i.isHost = true) (h : exec i s = .next t) :
    (s.phase = Phase.idle ∧ s.hCmd = none) ∧
      ((i = .initDisplay ∧ s.initDone = false ∧
          t = { setUpSequencer (setUpTimer (setUpLines s)) with initDone := true }) ∨
        (s.initDone = true ∧
          ((i = .schedEnable ∧ t = { s with tEn := true }) ∨
            (∃ r g b, i = .setColor r g b ∧ t = { s with drawColor := ⟨r, g, b⟩, dcValid := true }) ∨
            (cellCoords i = [] ∧ t = s) ∨
            (cellCoords i ≠ [] ∧ (∀ p ∈ cellCoords i, p.1 < 32 ∧ p.2 < 32) ∧
              ∃ c, t = startCommand i c s ∧ (c = zeroColor ∧ i = .clear ∨ c = s.drawColor ∧ s.dcValid = true))))) := by
  by_cases h1 : i = .initDisplay
  · subst h1
    obtain ⟨hf, hd, ht⟩ := execInitDisplay_next h
    exact ⟨hf, .inl ⟨rfl, hd, ht⟩⟩
  · by_cases h2 : i = .schedEnable
    · subst h2
      obtain ⟨hf, hd, ht⟩ := execSchedEnable_next h
      exact ⟨hf, .inr ⟨hd, .inl ⟨rfl, ht⟩⟩⟩
    · obtain ⟨hf, hd, ht⟩ := exec_drawing_next hi h1 h2 h
      exact ⟨hf, .inr ⟨hd, .inr ht⟩⟩

end Sys2Proof.Machine
end

