-- ==== Sys2Proof/Laws/Step.lean ====
section
/-! SUPPORT. The decoder's answers and the one inversion lemma of the step. -/

namespace Sys2Proof.Machine

/-! ## The decoder -/

/-- What the decoder answers is a well-formed host command. -/
theorem decodeHost_command {ws rest : List Word} {i : Instr} (h : decodeHost ws = .command i rest) :
    i.isHost = true ∧ i.wellFormed = true := by
  cases ws with
  | nil => cases h
  | cons w ws =>
    simp only [decodeHost] at h
    split at h
    case h_8 =>
      split at h
      · cases h
      · cases h
        simp only [Instr.isHost, Instr.wellFormed, List.length_take, true_and, beq_iff_eq]
        omega
    all_goals cases h
    all_goals exact ⟨rfl, rfl⟩

/-- What a phase code stands for, and back. -/
theorem decodePhase_some {c : BitVec 4} {i : Instr} (h : decodePhase c = some i) : encode i = .phase c ∧ i.isHost = false := by
  have key : ∀ c : BitVec 4,
      (decodePhase c).all (fun i => decide (encode i = .phase c) && !i.isHost) = true := by decide
  simpa [h] using key c

/-! ## One step -/

/-- Everything a step that answers a next state can do. `u` is `s` with its choice of agent used up. -/
theorem step_cases {s s' : State} (h : step s = .next s') :
    s.cfg.Wf ∧
      let u := consumeChoice s
      ((nextAgent s = .timer ∧ s' = tick u) ∨
      (nextAgent s = .engine ∧ engineEnabled s = true ∧ ∃ i, decodePhase s.phase = some i ∧ exec i u = .next s') ∨
      (nextAgent s = .host ∧ s.phase = Phase.idle ∧ ∃ c, s.hCmd = some c ∧ hostCell c u = .next s') ∨
      (nextAgent s = .host ∧ s.phase = Phase.idle ∧ s.hCmd = none ∧
        ∃ i rest, decodeHost s.port = .command i rest ∧ exec i { u with port := rest } = .next s')) := by
  unfold step at h
  split at h
  · cases h
  · rename_i hwf
    refine ⟨hwf, ?_⟩
    rcases nextAgent_enabled s with ha | ⟨ha, he, -⟩ | ⟨ha, he, -⟩
    · rw [ha] at h
      exact .inl ⟨ha, (Host.Outcome.next.inj h).symm⟩
    · rw [ha] at h
      have hp := ((hostEnabled_iff s).mp he).1
      simp only [agentStep, hostStep, consumeChoice_hCmd] at h
      split at h
      · rename_i c hc
        exact .inr (.inr (.inl ⟨ha, hp, c, hc, h⟩))
      · rename_i hc
        simp only [hostIssue, consumeChoice_port] at h
        split at h
        · rename_i i rest hd
          exact .inr (.inr (.inr ⟨ha, hp, hc, i, rest, hd, h⟩))
        · cases h
        · cases h
    · rw [ha] at h
      simp only [agentStep, engineStep, consumeChoice_phase] at h
      split at h
      · rename_i i hd
        exact .inr (.inl ⟨ha, he, i, hd, h⟩)
      · cases h

/-- What an engine step did, phase by phase: the operation is the one of `PHASE`. -/
theorem engine_cases {s t : State} {i : Instr} (hd : decodePhase s.phase = some i) (h : exec i s = .next t) :
    (s.phase = Phase.idle ∧ s.tPend = true ∧ s.initDone = true ∧ t = takeDisplayInterrupt s) ∨
    (s.phase = Phase.tstop ∧ t = { s with tEn := false, phase := Phase.tack }) ∨
    (s.phase = Phase.tack ∧ t = { s with tPend := false, phase := Phase.rowsel }) ∨
    (s.phase = Phase.rowsel ∧ ∃ v, s.cfg.rowSelect s.rowPair.toNat = some v ∧
      t = { emit (.sel v) (emit (.blank true) s) with colCnt := 0, phase := Phase.shift }) ∨
    (s.phase = Phase.shift ∧
      t = { emit .sck (emit (.data (colWord s.fb s.rowPair.toNat s.bitPlane.toNat s.colCnt.toNat)) s) with
        colCnt := if lastColumn s then 0 else s.colCnt + 1
        phase := if lastColumn s then Phase.latch else Phase.shift }) ∨
    (s.phase = Phase.latch ∧ t = { emit .lat s with phase := Phase.unblank }) ∨
    (s.phase = Phase.unblank ∧ t = { emit (.blank false) s with phase := Phase.treload }) ∨
    (s.phase = Phase.treload ∧ ∃ v, s.cfg.bcm s.bitPlane.toNat = some v ∧
      t = { loadTimer v s with tEn := true, phase := Phase.advance }) ∨
    (s.phase = Phase.advance ∧ t = returnToHost (advanceCursor s)) := by
  have hi := (decodePhase_some hd).2
  cases i with
  | entry =>
    obtain ⟨he, ht⟩ := execEntry_next h
    obtain ⟨a, b, c⟩ := (entryEnabled_iff s).mp he
    exact .inl ⟨a, b, c, ht⟩
  | tstop => exact .inr (.inl (execTstop_next h))
  | tack => exact .inr (.inr (.inl (execTack_next h)))
  | rowsel => exact .inr (.inr (.inr (.inl (execRowsel_next h))))
  | shift => exact .inr (.inr (.inr (.inr (.inl (execShift_next h)))))
  | latch => exact .inr (.inr (.inr (.inr (.inr (.inl (execLatch_next h))))))
  | unblank => exact .inr (.inr (.inr (.inr (.inr (.inr (.inl (execUnblank_next h)))))))
  | treload => exact .inr (.inr (.inr (.inr (.inr (.inr (.inr (.inl (execTreload_next h))))))))
  | advance => exact .inr (.inr (.inr (.inr (.inr (.inr (.inr (.inr (execAdvance_next h))))))))
  | setColor => cases hi
  | clear => cases hi
  | fillSolid => cases hi
  | drawPixel => cases hi
  | drawRowRun => cases hi
  | drawColRun => cases hi
  | drawMasked => cases hi
  | initDisplay => cases hi
  | schedEnable => cases hi

end Sys2Proof.Machine
end

