-- ==== Sys2Proof/Laws/Runs.lean ====
section
/-! SUPPORT. Finite runs: the induction over them, once, and how a count of steps grows. -/

namespace Sys2Proof.Machine

theorem RunUpTo.mono {σ : Nat → State} {m n : Nat} (h : RunUpTo σ n) (hm : m ≤ n) : RunUpTo σ m :=
  fun k hk => h k (Nat.lt_of_lt_of_le hk hm)

/-- What holds at the start and is kept by every step holds along the run. -/
theorem RunUpTo.induct {σ : Nat → State} {n : Nat} (h : RunUpTo σ n) {P : Nat → Prop} (h0 : P 0)
    (hs : ∀ m, m < n → P m → step (σ m) = .next (σ (m + 1)) → P (m + 1)) : ∀ m, m ≤ n → P m := by
  intro m
  induction m with
  | zero => exact fun _ => h0
  | succ m ih => exact fun hm => hs m hm (ih (Nat.le_of_succ_le hm)) (h m hm)

@[simp] theorem stepCount_zero (p : State → Bool) (σ : Nat → State) : stepCount p σ 0 = 0 := rfl

theorem stepCount_succ (p : State → Bool) (σ : Nat → State) (n : Nat) :
    stepCount p σ (n + 1) = stepCount p σ n + if p (σ n) then 1 else 0 := by
  simp [stepCount, List.range_succ, List.countP_append, List.countP_cons]

@[simp] theorem engineSteps_zero (p : BitVec 4) (σ : Nat → State) : engineSteps p σ 0 = 0 := rfl

theorem engineSteps_succ (p : BitVec 4) (σ : Nat → State) (n : Nat) :
    engineSteps p σ (n + 1) =
      engineSteps p σ n + if nextAgent (σ n) = .engine ∧ (σ n).phase = p then 1 else 0 := by
  rw [engineSteps, stepCount_succ]
  simp

@[simp] theorem hostSteps_zero (σ : Nat → State) : hostSteps σ 0 = 0 := rfl

theorem hostSteps_succ (σ : Nat → State) (n : Nat) :
    hostSteps σ (n + 1) = hostSteps σ n + if nextAgent (σ n) = .host then 1 else 0 := by
  rw [hostSteps, stepCount_succ]
  simp

@[simp] theorem latchedExpiries_zero (σ : Nat → State) : latchedExpiries σ 0 = 0 := rfl

theorem latchedExpiries_succ (σ : Nat → State) (n : Nat) :
    latchedExpiries σ (n + 1) =
      latchedExpiries σ n +
        if nextAgent (σ n) = .timer ∧ expires (σ n) = true ∧ (σ n).tPend = false then 1 else 0 := by
  rw [latchedExpiries, stepCount_succ]
  simp [and_assoc]

@[simp] theorem litTicks_zero (w : List Nat) (r c : Nat) (ch : Channel) (σ : Nat → State) : litTicks w r c ch σ 0 = 0 := rfl

theorem litTicks_succ (w : List Nat) (r c : Nat) (ch : Channel) (σ : Nat → State) (n : Nat) :
    litTicks w r c ch σ (n + 1) =
      litTicks w r c ch σ n + if nextAgent (σ n) = .timer ∧ lit w (σ n) r c ch = true then 1 else 0 := by
  rw [litTicks, stepCount_succ]
  simp

end Sys2Proof.Machine
end

