-- ==== Sys2Proof/Tests/Slice0.lean ====
section
/-! SUPPORT. Tests, and a witness for every obligation that has hypotheses. Expected values are those of
spec/95_test_vectors.md and spec/30_encoding.md, or hand calculation from the rule a comment names. -/

namespace Sys2Proof.Tests

open Sys2Proof.Machine

-- One theorem at a time: elaborated side by side they hold a thread each while the kernel evaluates, and memory with it.
set_option Elab.async false

/-! ## States -/

/-- Set up, in the host context, with draw colour (1,2,3): the start state of B2, the framebuffer left zero. -/
def ready : State :=
  { State.reset with initDone := true, dcValid := true, drawColor := ⟨1, 2, 3⟩, tReload := 16, tCount := 16 }

/-- `ready` with `CHANNEL_TEAR`. -/
def tearing : State := { ready with cfg := { Config.cfgEx with channelTear := true } }

/-- Row-pair 0, plane 0 at phase `p`, as an invocation from `ready` reaches it. -/
def engineAt (p : BitVec 4) : State :=
  { ready with
    phase := p
    tEn := decide (p.toNat ≤ 1) || decide (p.toNat = 8)
    tPend := decide (p.toNat ≤ 2)
    blank := decide (4 ≤ p.toNat) && decide (p.toNat ≤ 6) }

/-- The last row-pair and the last plane of the frame. -/
def lastCursor (s : State) : State := { s with rowPair := 15, bitPlane := 7 }

/-- The countdown runs and has two ticks to go. -/
def counting : State := { ready with tEn := true, tCount := 2 }

/-- A pixel write in flight. -/
def drawing (s : State) : State := { s with hCmd := some ⟨.drawPixel 31 31, ⟨1, 2, 3⟩⟩ }

theorem of_nextOf {o : Out} {t : State} (h : nextOf o = some t) : o = .next t := by
  cases o with
  | next s => exact congrArg _ (Option.some.inj h)
  | fault f => cases h
  | refused r => cases h

theorem next_of_isSome {o : Out} (h : (nextOf o).isSome = true) : ∃ t, o = .next t :=
  ⟨_, of_nextOf (Option.some_get h).symm⟩

/-- The invariant, in parts Lean can decide on a given state. -/
theorem inv_of {s : State} (h1 : s.cfg.Wf) (h2 : s.fb.wf) (h3 : SequencerInv s) (h4 : TimerInv s) (h5 : PinInv s)
    (h6 : ∀ c ∈ s.hCmd.toList, CommandInv s c) (h7 : s.hCmd = none ∨ s.cfg.channelTear = false → s.hChan = .red)
    (h8 : s.dcValid = true → s.initDone = true) : Inv s :=
  ⟨h1, h2, h3, h4, h5, fun c hc => h6 c (Option.mem_toList.mpr hc), h7, h8⟩

/-- The invariant holds at the legal phases of the invocation. -/
theorem inv_engineAt (n : Fin 9) : Inv (engineAt (BitVec.ofNat 4 n)) :=
  inv_of (show Config.cfgEx.Wf by decide) ⟨List.Pairwise.nil, nofun⟩ (by revert n; decide +kernel) (by revert n; decide +kernel)
    (by revert n; decide +kernel) nofun (fun _ => rfl) fun _ => rfl

theorem inv_drawing_ready :
    SequencerInv (drawing ready) ∧ TimerInv (drawing ready) ∧ PinInv (drawing ready) ∧
      ∀ c ∈ (drawing ready).hCmd.toList, CommandInv (drawing ready) c :=
  ⟨by decide +kernel, by decide +kernel, by decide +kernel, by decide +kernel⟩

/-- The run from a state, standing still where a step stops. -/
def runOf (s : State) : Nat → State
  | 0 => s
  | n + 1 => (nextOf (step (runOf s n))).getD (runOf s n)

/-- A run checked as it goes: `p` in every state, and how many steps are taken from a state with `q`. -/
def countRun (p q : State → Bool) : Nat → State → Nat → Option (Nat × State)
  | 0, s, k => if p s then some (k, s) else none
  | n + 1, s, k =>
    if p s then
      match nextOf (step s) with
      | some t => if q s then countRun p q n t (k + 1) else countRun p q n t k
      | none => none
    else none

theorem run_of_countRun_aux {p q : State → Bool} : ∀ (n : Nat) (s t : State) (k j : Nat), countRun p q n s k = some (j, t) →
    ∃ σ : Nat → State, σ 0 = s ∧ RunUpTo σ n ∧ (∀ m, m ≤ n → p (σ m) = true) ∧ k + stepCount q σ n = j ∧ σ n = t := by
  intro n
  induction n with
  | zero =>
    intro s t k j h
    rw [countRun] at h
    split at h
    · rename_i hp
      obtain ⟨rfl, rfl⟩ := Prod.mk.inj (Option.some.inj h)
      exact ⟨fun _ => s, rfl, nofun, fun _ _ => hp, rfl, rfl⟩
    · cases h
  | succ n ih =>
    intro s t k j h
    rw [countRun] at h
    split at h
    case isFalse => cases h
    case isTrue hp =>
      split at h
      case h_2 => cases h
      case h_1 u hu =>
        have key : ∃ σ : Nat → State, σ 0 = u ∧ RunUpTo σ n ∧ (∀ m, m ≤ n → p (σ m) = true) ∧
            (k + if q s then 1 else 0) + stepCount q σ n = j ∧ σ n = t := by
          split at h
          · rename_i hq
            simpa [hq] using ih _ _ _ _ h
          · rename_i hq
            simpa [hq] using ih _ _ _ _ h
        obtain ⟨σ, h0, hr, hps, hc, ht⟩ := key
        refine ⟨fun m => m.casesOn s σ, rfl, fun m hm => ?_, fun m hm => ?_, ?_, ht⟩
        · cases m with
          | zero => exact (of_nextOf hu).trans (congrArg _ h0.symm)
          | succ m => exact hr m (Nat.lt_of_succ_lt_succ hm)
        · cases m with
          | zero => exact hp
          | succ m => exact hps m (Nat.le_of_succ_le_succ hm)
        · rw [← hc]
          have hs : stepCount q (fun m => m.casesOn s σ) (n + 1) = stepCount q σ n + if q s then 1 else 0 := by
            rw [stepCount, List.range_succ_eq_map, List.countP_cons, List.countP_map]
            rfl
          omega

theorem run_of_countRun {p q : State → Bool} {n : Nat} {s : State} {r : Nat → State → Bool}
    (h : ((countRun p q n s 0).map fun x => r x.1 x.2) = some true) :
    ∃ σ : Nat → State, σ 0 = s ∧ RunUpTo σ n ∧ (∀ m, m ≤ n → p (σ m) = true) ∧
      r (stepCount q σ n) (σ n) = true := by
  cases hc : countRun p q n s 0 with
  | none => simp [hc] at h
  | some x =>
    obtain ⟨σ, h0, hr, hp, hk, ht⟩ := run_of_countRun_aux n s x.2 0 x.1 hc
    refine ⟨σ, h0, hr, hp, ?_⟩
    rw [ht, show stepCount q σ n = x.1 by omega]
    simpa [hc] using h

/-- One bit-plane of one tick. -/
def smallest : Config := { Config.cfgEx with bitDepth := 1, bcmTable := [1], tmrInitReload := 1 }

/-- The first invocation of a frame is pending, and sixteen invocations follow, each with the tick that ends its plane. -/
def frameStart : State :=
  { State.resetWith smallest with
    initDone := true, tEn := true, tPend := true, tReload := 1, tCount := 1
    sched := (List.replicate 16 (List.replicate 40 .engine ++ [.timer])).flatten ++ [.engine] }

def quietFrame (s : State) : Bool := s.fb == [] && (nextAgent s != .timer || (s.phase == Phase.idle && !s.tPend))

def atEntry (s : State) : Bool := nextAgent s == .engine && s.phase == Phase.idle

/-! ## Well-formed terms -/

theorem test_wellFormed_refuses_31_words : (Instr.drawMasked (List.replicate 31 0)).wellFormed = false := by decide
theorem test_wellFormed_refuses_33_words : (Instr.drawMasked (List.replicate 33 0)).wellFormed = false := by decide
theorem test_wellFormed_32_words : (Instr.drawMasked (List.replicate 32 0)).wellFormed = true := by decide

/-! ## Decoding: words from spec/95_test_vectors.md B1, some written out bit by bit from spec/30_encoding.md R92 -/

theorem test_decode_setColor :
    decodeHost [0b00010000100000000000000101111111#32] = .command (.setColor 128 1 127) [] := by decide
theorem test_decode_clear : decodeHost [0b00100000000000000000000000000000#32] = .command .clear [] := by decide
theorem test_decode_fillSolid : decodeHost [0b00110000000000000000000000000000#32] = .command .fillSolid [] := by decide
theorem test_decode_drawPixel :
    decodeHost [0b01000000000000000001000000011111#32] = .command (.drawPixel 16 31) [] := by decide
theorem test_decode_drawRowRun :
    decodeHost [0b01010000000001010000001000000100#32] = .command (.drawRowRun 5 2 4) [] := by decide
theorem test_decode_drawColRun :
    decodeHost [0b01100000000001110000111000000100#32] = .command (.drawColRun 7 14 4) [] := by decide
/-- The payload is not read as commands: 32 reserved words, then `CLEAR`. -/
theorem test_decode_drawMasked :
    decodeHost (0b01110000000000000000000000000000#32 :: (List.replicate 32 0xFFFFFFFF#32 ++ [0x20000000#32])) =
      .command (.drawMasked (List.replicate 32 0xFFFFFFFF#32)) [0x20000000#32] := by decide
theorem test_decode_initDisplay : decodeHost [0b10000000000000000000000000000000#32] = .command .initDisplay [] := by decide
theorem test_decode_schedEnable : decodeHost [0b10010000000000000000000000000000#32] = .command .schedEnable [] := by decide
theorem test_decode_entry : decodePhase 0b0000#4 = some .entry := by decide
theorem test_decode_tstop : decodePhase 0b0001#4 = some .tstop := by decide
theorem test_decode_tack : decodePhase 0b0010#4 = some .tack := by decide
theorem test_decode_rowsel : decodePhase 0b0011#4 = some .rowsel := by decide
theorem test_decode_shift : decodePhase 0b0100#4 = some .shift := by decide
theorem test_decode_latch : decodePhase 0b0101#4 = some .latch := by decide
theorem test_decode_unblank : decodePhase 0b0110#4 = some .unblank := by decide
theorem test_decode_treload : decodePhase 0b0111#4 = some .treload := by decide
theorem test_decode_advance : decodePhase 0b1000#4 = some .advance := by decide
theorem test_decode_phase_9_to_15 : ∀ c : BitVec 4, 9 ≤ c.toNat → decodePhase c = none := by decide

theorem test_reserved_words :
    decodeHost [0x11000000] = .reserved 0x11000000 ∧ decodeHost [0x20000001] = .reserved 0x20000001 ∧
    decodeHost [0x40010000] = .reserved 0x40010000 ∧ decodeHost [0] = .reserved 0 ∧
    decodeHost [0xA0000000] = .reserved 0xA0000000 ∧ decodeHost [0xFFFFFFFF] = .reserved 0xFFFFFFFF := by decide
/-- "decodes; the command then raises `F_COORD`". -/
theorem test_decode_out_of_range : decodeHost [0x40002000] = .command (.drawPixel 32 0) [] := by decide
theorem test_tableWord_phase_and_command :
    decodeTableWord 8 4 = some .shift ∧ decodeTableWord 8 9 = none ∧
    decodeTableWord 32 0x70000000 = some (.drawMasked (List.replicate 32 0)) := by decide

/-! ## The configuration (B3, A4) -/

theorem test_config_accepts_cfgEx : Config.cfgEx.Wf := by decide
theorem test_config_refuses_depth_9 : { Config.cfgEx with bitDepth := 9 }.failing = some .bitDepth := by decide
theorem test_config_refuses_depth_0 : { Config.cfgEx with bitDepth := 0 }.failing = some .bitDepth := by decide
theorem test_config_refuses_zero_duration :
    { Config.cfgEx with bcmTable := [0, 32, 64, 128, 256, 512, 1024, 2048] }.failing = some .tableRange := by decide
theorem test_config_refuses_wide_select_code :
    { Config.cfgEx with rowSelectMap := [0, 1, 2, 16, 4, 5, 6, 7, 8, 9, 10, 11, 12, 13, 14, 15] }.failing =
      some .mapRange := by decide
theorem test_config_accepts_constant_map : { Config.cfgEx with rowSelectMap := List.replicate 16 0 }.Wf := by decide
theorem test_config_tolerance :
    { Config.cfgEx with bcmTable := [16, 32, 64, 128, 256, 512, 1024, 2040] }.failing = some .tableDoubling ∧
    { Config.cfgEx with bcmTable := [16, 32, 64, 128, 256, 512, 1024, 2040], bcmTol := 8 }.Wf ∧
    { Config.cfgEx with bcmTable := [16, 32, 64, 128, 256, 512, 1024, 1000], bcmTol := 5000 }.failing =
      some .tableNonDecreasing := by decide

/-! ## Memory -/

theorem test_memory_write_zero_removes : (Memory.write [(3, 7)] 3 0) = [] := by decide
theorem test_memory_stays_sorted : (Memory.write [(3, 7), (9, 1)] 5 2) = [(3, 7), (5, 2), (9, 1)] := by decide
/-- The highest legal cell, linear address 1023 (B2). -/
theorem test_memory_last_cell : channelAddr 31 31 .red = 3 * 1023 ∧ channelAddr 31 31 .blue + 1 = Memory.size := by decide

/-! ## Drawing commands (B2, B3) -/

theorem test_setColor_black : (nextOf (exec (.setColor 0 0 0) ready)).map State.drawColor = some ⟨0, 0, 0⟩ := by decide
theorem test_clear_needs_no_color :
    (nextOf (exec .clear { ready with dcValid := false })).map State.hCmd = some (some ⟨.clear, ⟨0, 0, 0⟩⟩) := by decide
theorem test_fillSolid_needs_color :
    faultOf (exec .fillSolid { ready with dcValid := false }) = some (.unsetColor .fillSolid) := by decide +kernel
theorem test_fillSolid_first_cells : (cellCoords .fillSolid).take 34 =
    (List.range 32).map (fun c => (0, c)) ++ [(1, 0), (1, 1)] := by decide +kernel
theorem test_drawPixel_out_of_range : faultOf (exec (.drawPixel 0 32) ready) = some (.coord 0 32) := by decide
theorem test_drawRowRun_cells : cellCoords (.drawRowRun 5 2 4) = [(5, 2), (5, 3), (5, 4), (5, 5)] := by decide
theorem test_drawRowRun_bounds :
    faultOf (exec (.drawRowRun 5 200 100) ready) = some (.run 200 100) ∧
    faultOf (exec (.drawRowRun 5 33 0) ready) = some (.run 33 0) ∧ nextOf (exec (.drawRowRun 7 32 0) ready) = some ready := by
  decide
theorem test_drawColRun_cells : cellCoords (.drawColRun 7 14 4) = [(14, 7), (15, 7), (16, 7), (17, 7)] := by decide
theorem test_drawColRun_bounds :
    faultOf (exec (.drawColRun 32 0 1) ready) = some (.coord 0 32) ∧
    faultOf (exec (.drawColRun 0 30 3) ready) = some (.run 30 3) := by decide
/-- Bit 0 of a word is column 0, bit 31 is column 31. -/
theorem test_drawMasked_bit_order :
    cellCoords (.drawMasked ([0, 0, 0, 0x80000001] ++ List.replicate 28 0)) = [(3, 0), (3, 31)] := by decide +kernel
theorem test_drawMasked_empty :
    nextOf (exec (.drawMasked (List.replicate 32 0)) { ready with dcValid := false }) =
      some { ready with dcValid := false } := by decide +kernel
theorem test_hostCell_writes :
    (nextOf (hostCell ⟨.drawPixel 31 31, ⟨1, 2, 3⟩⟩ ready)).map State.fb = some [(3069, 1), (3070, 2), (3071, 3)] := by decide

/-! ## Set-up commands (B3, B7) -/

theorem test_initDisplay_loads_timer :
    (nextOf (exec .initDisplay State.reset)).map (fun t => (t.tReload, t.tCount, t.tEn, t.initDone)) =
      some (16, 16, false, true) := by decide
theorem test_initDisplay_twice : faultOf (exec .initDisplay ready) = some .reInit := by decide
theorem test_schedEnable : (nextOf (exec .schedEnable ready)).map State.tEn = some true := by decide
theorem test_schedEnable_at_reset : faultOf (exec .schedEnable State.reset) = some (.noInit .schedEnable) := by decide

/-! ## Sequencer operations (B4, B5) -/

theorem test_entry : (nextOf (exec .entry (engineAt 0))).map State.phase = some 1 := by decide
theorem test_tstop : (nextOf (exec .tstop (engineAt 1))).map (fun t => (t.tEn, t.tPend, t.phase)) = some (false, true, 2) := by
  decide
theorem test_tack : (nextOf (exec .tack (engineAt 2))).map (fun t => (t.tPend, t.phase)) = some (false, 3) := by decide
/-- `CFG_REV`: row-pair 1 has code 8. -/
theorem test_rowsel_uses_the_map :
    (nextOf (exec .rowsel { engineAt 3 with
      rowPair := 1, cfg := { Config.cfgEx with rowSelectMap := [0, 8, 4, 12, 2, 10, 6, 14, 1, 9, 5, 13, 3, 11, 7, 15] } })).map
        (fun t => (t.sel, t.blank, pinEvents t.trace)) = some (8, true, [.blank true, .sel 8]) := by decide
/-- A red upper cell at column 31 of row 0. -/
theorem test_shift_last_column :
    (nextOf (exec .shift { engineAt 4 with colCnt := 31, fb := [(93, 255)] })).map
      (fun t => (t.d, t.colCnt, t.phase, t.pSr.getLast?, pinEvents t.trace)) =
        some (1, 0, 5, some 1, [.data 1, .sck]) := by decide
theorem test_shift_goes_on :
    (nextOf (exec .shift { engineAt 4 with colCnt := 30 })).map (fun t => (t.colCnt, t.phase)) = some (31, 4) := by decide
theorem test_colWord :
    colWordOf ⟨0x80, 0x01, 0xFF⟩ ⟨0x00, 0x03, 0x7F⟩ 0 = 0x36 ∧ colWordOf ⟨0x80, 0x01, 0xFF⟩ ⟨0x00, 0x03, 0x7F⟩ 1 = 0x34 ∧
    colWordOf ⟨0x80, 0x01, 0xFF⟩ ⟨0x00, 0x03, 0x7F⟩ 6 = 0x24 ∧ colWordOf ⟨0x80, 0x01, 0xFF⟩ ⟨0x00, 0x03, 0x7F⟩ 7 = 0x05 ∧
    colWordOf ⟨0x05, 0x00, 0xC8⟩ ⟨0x00, 0xFF, 0x01⟩ 3 = 0x14 := by decide
theorem test_latch_copies :
    (nextOf (exec .latch { engineAt 5 with pSr := List.replicate 32 9 })).map (fun t => (t.pLatch, pinEvents t.trace)) =
      some (List.replicate 32 9, [.lat]) := by decide
theorem test_unblank : (nextOf (exec .unblank (engineAt 6))).map (fun t => (t.blank, t.phase)) = some (false, 7) := by decide
theorem test_treload_plane_7 :
    (nextOf (exec .treload { engineAt 7 with bitPlane := 7 })).map (fun t => (t.tReload, t.tCount, t.tEn)) =
      some (2048, 2048, true) := by decide
theorem test_advance_wraps :
    (nextOf (exec .advance (lastCursor (engineAt 8)))).map (fun t => (t.rowPair, t.bitPlane, t.phase)) = some (0, 0, 0) := by
  decide
theorem test_advance_plane_6 :
    (nextOf (exec .advance { engineAt 8 with rowPair := 3, bitPlane := 6 })).map (fun t => (t.rowPair, t.bitPlane)) =
      some (3, 7) := by decide

/-! ## The timer (B6) -/

theorem test_tick_counts : (tick { ready with tEn := true, tCount := 3 }).tCount = 2 := by decide
theorem test_tick_expires :
    (tick { ready with tEn := true, tCount := 1 }).tCount = 16 ∧ (tick { ready with tEn := true, tCount := 1 }).tPend = true := by
  decide
theorem test_tick_disabled : (tick { ready with tCount := 7, tPend := true }).tCount = 7 := by decide

/-! ## Steps -/

theorem test_step_issues_the_placed_command :
    (nextOf (step (State.reset.withFetchWord 32 0x80000000))).map State.initDone = some true := by decide
theorem test_step_runs_the_placed_phase :
    (nextOf (step (State.reset.withFetchWord 8 0))).map State.phase = some 1 := by decide
theorem test_step_refuses_config :
    faultOf (step { State.reset with cfg := { Config.cfgEx with bitDepth := 9 } }) = some (.config .bitDepth) := by decide
theorem test_step_reserved :
    faultOf (step { State.reset with port := [0x11000000], sched := [.host] }) = some (.rsvd 0x11000000) := by decide

/-! ## Witnesses: each obligation's hypotheses hold together somewhere, at the ends of the ranges where there are ranges -/

theorem witness_DecodeOfEncodeIsTheInstruction :
    (Instr.drawMasked (List.replicate 32 0xFFFFFFFF)).wellFormed = true ∧
    (Instr.drawMasked (List.replicate 32 0xFFFFFFFF)).isHost = true ∧ (Instr.setColor 255 255 255).wellFormed = true := by
  decide
theorem witness_EncodeOfDecodeIsTheCode :
    decode (.words [0x4000FFFF]) = some (.drawPixel 255 255) ∧
    decodeHost [0x50FFFFFF, 7] = .command (.drawRowRun 255 255 255) [7] := by decide
theorem witness_WordsSelectOneRowOrAreReserved :
    ⟨0x10000000, 0xFF000000, .setColor⟩ ∈ hostRows ∧ OpRow.selects ⟨0x10000000, 0xFF000000, .setColor⟩ 0x10FFFFFF = true := by
  decide
theorem witness_MaskedCommandTakesThirtyTwoPayloadWords :
    (List.replicate 32 (0 : Word)).length = 32 ∧ (List.replicate 31 (0 : Word)).length < 32 := by decide
theorem witness_ConfigurationIsCheckedClauseByClause :
    { State.reset with cfg := { Config.cfgEx with bitDepth := 9 } }.cfg.failing = some .bitDepth := by decide
theorem witness_ResetMeetsTheInvariant : Config.cfgEx.Wf := by decide
theorem witness_StepRunsTheDecodedOperation_engine :
    Config.cfgEx.Wf ∧ chosenAgent { engineAt 8 with sched := [.engine] } = .engine ∧
    engineEnabled { engineAt 8 with sched := [.engine] } = true ∧ decodePhase (engineAt 8).phase = some .advance := by decide
theorem witness_StepRunsTheDecodedOperation_host :
    chosenAgent { ready with sched := [.host] } = .host ∧ ready.phase = Phase.idle ∧ ready.hCmd = none ∧
    (drawing ready).hCmd = some ⟨.drawPixel 31 31, ⟨1, 2, 3⟩⟩ ∧ decodeHost [0x20000000] = .command .clear [] ∧
    decodeHost [0xFFFFFFFF] = .reserved 0xFFFFFFFF ∧
    chosenAgent { ready with sched := [.timer] } = .timer := by decide
theorem witness_PlacedTableWordIsTheNextOperation :
    State.reset.cfg.Wf ∧ decodeTableWord 32 0x60FFFFFF = some (.drawColRun 255 255 255) ∧ decodeTableWord 8 8 = some .advance := by
  decide
theorem witness_OnlyEnabledAgentsMove :
    nextAgent { ready with port := [0], sched := [.host] } = .host ∧
    nextAgent { engineAt 0 with sched := [.engine] } = .engine := by decide
theorem witness_EveryStepKeepsTheInvariant :
    Inv (engineAt 7) ∧ Inv (engineAt 8) ∧ Inv (drawing tearing) ∧
    ∃ t, step { engineAt 7 with sched := [.engine] } = .next t :=
  ⟨inv_engineAt 7, inv_engineAt 8,
    inv_of (by decide) ⟨List.Pairwise.nil, nofun⟩ (by decide +kernel) (by decide +kernel) (by decide +kernel) (by decide +kernel)
      nofun (fun _ => rfl),
    next_of_isSome (by decide)⟩
theorem witness_NothingScansBeforeInitDisplay :
    Inv State.reset ∧ State.reset.initDone = false ∧ ∃ t, step { State.reset with sched := [.timer] } = .next t :=
  ⟨inv_of (by decide) ⟨List.Pairwise.nil, nofun⟩ (by decide +kernel) (by decide +kernel) (by decide +kernel) nofun (fun _ => rfl) nofun,
    by decide, next_of_isSome (by decide)⟩
/-- Also for the obligations about the issue of each drawing command. -/
theorem witness_SetUpCommandsWriteTheirRegisters :
    (State.reset.phase = Phase.idle ∧ State.reset.hCmd = none ∧ State.reset.initDone = false) ∧
    (ready.phase = Phase.idle ∧ ready.hCmd = none ∧ ready.initDone = true) := by decide
theorem witness_CommandsOutOfTurnFault :
    Instr.clear.isHost = true ∧ (engineAt 1).phase ≠ Phase.idle ∧ (drawing ready).hCmd ≠ none ∧
    State.reset.initDone = false ∧ ready.initDone = true ∧ Instr.clear ≠ .initDisplay := by decide
theorem witness_SetColorReplacesTheDrawColor :
    ready.phase = Phase.idle ∧ ready.hCmd = none ∧ ready.initDone = true := by decide
theorem witness_ClearStartsWithoutADrawColor :
    ready.phase = Phase.idle ∧ ready.hCmd = none ∧ ready.initDone = true := by decide
theorem witness_FillAndPixelStartWithTheDrawColor :
    ready.phase = Phase.idle ∧ ready.hCmd = none ∧ ready.initDone = true ∧ ready.dcValid = true ∧
    (31 : Byte).toNat < 32 ∧ (0 : Byte).toNat < 32 := by decide
theorem witness_RunsInsideTheGridStart :
    ready.phase = Phase.idle ∧ ready.hCmd = none ∧ ready.initDone = true ∧ ready.dcValid = true ∧
    (31 : Byte).toNat < 32 ∧ (32 : Byte).toNat + (0 : Byte).toNat ≤ 32 ∧ (0 : Byte).toNat + (32 : Byte).toNat ≤ 32 ∧
    (32 : Byte) ≠ 0 := by decide
theorem witness_MaskedFillStartsWhenAnyBitIsSet :
    ready.phase = Phase.idle ∧ ready.hCmd = none ∧ ready.initDone = true ∧ ready.dcValid = true ∧
    (List.replicate 32 (0 : Word)).length = 32 ∧ (∀ w ∈ List.replicate 32 (0 : Word), w = 0) ∧
    ∃ w ∈ List.replicate 32 (0x80000000 : Word), w ≠ 0 :=
  ⟨rfl, rfl, rfl, rfl, rfl, fun _ h => List.eq_of_mem_replicate h, 0x80000000, List.mem_replicate.mpr ⟨by decide, rfl⟩, by decide⟩
theorem witness_OperandsOutsideTheGridFault :
    ready.phase = Phase.idle ∧ ready.hCmd = none ∧ ready.initDone = true ∧ 32 ≤ (32 : Byte).toNat ∧
    (31 : Byte).toNat < 32 ∧ 32 < (33 : Byte).toNat + (0 : Byte).toNat ∧ 32 < (0 : Byte).toNat + (33 : Byte).toNat := by decide
theorem witness_DrawingWithoutAColorFaults :
    (fun s : State => s.phase = Phase.idle ∧ s.hCmd = none ∧ s.initDone = true ∧ s.dcValid = false)
      { ready with dcValid := false } ∧
    (Instr.drawPixel 31 31).isHost = true ∧ Instr.drawPixel 31 31 ≠ .clear ∧ cellCoords (.drawPixel 31 31) ≠ [] ∧
    ∀ p ∈ cellCoords (.drawPixel 31 31), p.1 < 32 ∧ p.2 < 32 := by decide
theorem witness_IssuingADrawingCommandChangesOnlyHostState :
    (Instr.drawPixel 31 31).isHost = true ∧ Instr.drawPixel 31 31 ≠ .initDisplay ∧ Instr.drawPixel 31 31 ≠ .schedEnable ∧
    (∃ t, exec (.drawPixel 31 31) ready = .next t) ∧ ∀ r g b, Instr.drawPixel 31 31 ≠ .setColor r g b :=
  ⟨by decide, by decide, by decide, next_of_isSome (by decide), nofun⟩
theorem witness_HostCellWritesTheNextCell :
    ready.fb.wf ∧ ready.cfg.channelTear = false ∧ (cellCoords (.drawPixel 31 31))[ready.hIdx]? = some (31, 31) := by decide
theorem witness_HostCellChangesNoOtherCell :
    tearing.fb.wf ∧ (∃ t, hostCell ⟨.drawPixel 0 0, ⟨1, 2, 3⟩⟩ tearing = .next t) ∧
    (cellCoords (.drawPixel 0 0))[tearing.hIdx]? = some (0, 0) ∧ ∀ ch, 3071 ≠ channelAddr 0 0 ch :=
  ⟨by decide, next_of_isSome (by decide), by decide, fun ch => by cases ch <;> decide⟩
theorem witness_ThreeTornWritesMakeOneCell :
    (drawing tearing).cfg.channelTear = true ∧ (drawing tearing).hChan = .red ∧
    (drawing tearing).hCmd = some ⟨.drawPixel 31 31, ⟨1, 2, 3⟩⟩ ∧
    (cellCoords (.drawPixel 31 31))[(drawing tearing).hIdx]? = some (31, 31) := by decide
theorem witness_CommandWritesExactlyItsCells :
    (Instr.drawColRun 31 0 32).isHost = true ∧ (Instr.drawColRun 31 0 32).wellFormed = true ∧
    cellCoords (.drawColRun 31 0 32) ≠ [] ∧ (∀ p ∈ cellCoords (.drawColRun 31 0 32), p.1 < 32 ∧ p.2 < 32) ∧
    tearing.dcValid = true ∧ tearing.cfg.Wf ∧ tearing.fb.wf ∧ tearing.phase = Phase.idle ∧ tearing.hCmd = none ∧
    tearing.initDone = true := by decide
theorem witness_ClearAndFillLeaveOneColor :
    ready.cfg.Wf ∧ ready.fb.wf ∧ ready.phase = Phase.idle ∧ ready.hCmd = none ∧ ready.initDone = true ∧ ready.dcValid = true := by
  decide
theorem witness_PixelAndRunsChangeTheirCellsOnly :
    ready.cfg.Wf ∧ ready.fb.wf ∧ ready.phase = Phase.idle ∧ ready.hCmd = none ∧ ready.initDone = true ∧ ready.dcValid = true ∧
    (31 : Byte).toNat < 32 ∧ (32 : Byte).toNat + (0 : Byte).toNat ≤ 32 ∧ (0 : Byte).toNat + (32 : Byte).toNat ≤ 32 := by decide
theorem witness_MaskedFillIsAStencil :
    ready.cfg.Wf ∧ ready.fb.wf ∧ ready.phase = Phase.idle ∧ ready.hCmd = none ∧ ready.initDone = true ∧ ready.dcValid = true ∧
    (List.replicate 32 (0xFFFFFFFF : Word)).length = 32 := by decide
theorem witness_ClearEndsAsABlackFill :
    tearing.cfg.Wf ∧ tearing.fb.wf ∧ tearing.phase = Phase.idle ∧ tearing.hCmd = none ∧ tearing.initDone = true := by decide
theorem witness_EntryTakesTheDisplayInterrupt :
    (engineAt 0).phase = Phase.idle ∧ (engineAt 0).tPend = true ∧ (engineAt 0).initDone = true ∧
    (∃ t, exec .tstop (engineAt 1) = .next t) ∧ ∃ t, exec .treload (engineAt 7) = .next t :=
  ⟨by decide, by decide, by decide, next_of_isSome (by decide), next_of_isSome (by decide)⟩
theorem witness_TstopDisablesTheCountdown :
    (engineAt 1).phase = Phase.tstop ∧ (engineAt 1).tPend = true ∧ Inv (engineAt 2) ∧ Inv (engineAt 7) ∧
    2 ≤ (engineAt 2).phase.toNat ∧ (engineAt 7).phase.toNat ≤ 7 :=
  ⟨by decide, by decide, inv_engineAt 2, inv_engineAt 7, by decide, by decide⟩
theorem witness_TackClearsThePendingExpiry :
    (engineAt 2).phase = Phase.tack ∧ Inv (engineAt 3) ∧ Inv (engineAt 7) ∧ 3 ≤ (engineAt 3).phase.toNat ∧
    (engineAt 7).phase.toNat ≤ 7 ∧
    ∃ σ : Nat → State, RunUpTo σ 1 ∧ Inv (σ 0) ∧ (σ 0).phase = Phase.idle ∧ (σ 1).phase = Phase.tstop :=
  ⟨by decide, inv_engineAt 3, inv_engineAt 7, by decide, by decide,
    runOf { engineAt 0 with sched := [.engine] }, fun m hm => by obtain rfl : m = 0 := (by omega); rfl, inv_engineAt 0, rfl, rfl⟩
theorem witness_RowselBlanksThenSelects :
    (engineAt 3).phase = Phase.rowsel ∧ (lastCursor (engineAt 3)).phase = Phase.rowsel ∧ (engineAt 3).cfg.Wf := by decide
theorem witness_ShiftPutsOutOneColumn :
    (engineAt 4).phase = Phase.shift ∧ (engineAt 4).colCnt ≠ 31 ∧ { engineAt 4 with colCnt := 31 }.phase = Phase.shift := by
  decide
theorem witness_LatchStrobesOnce :
    (engineAt 5).phase = Phase.latch ∧ Inv (engineAt 5) ∧ (∃ t, exec .latch (engineAt 5) = .next t) ∧
    (engineAt 4).phase ≠ Phase.latch ∧
    (∃ t, step { engineAt 4 with colCnt := 31, sched := [.engine] } = .next t ∧ t.phase = Phase.latch) ∧
    ∃ t, step { engineAt 5 with pSr := List.replicate 32 1, sched := [.engine] } = .next t ∧ t.pLatch ≠ (engineAt 5).pLatch :=
  ⟨by decide, inv_engineAt 5, next_of_isSome (by decide), by decide, ⟨_, rfl, by decide⟩, _, rfl, by decide⟩
theorem witness_UnblankMakesTheRowPairVisible :
    (engineAt 6).phase = Phase.unblank ∧ Inv (engineAt 6) ∧
    ∃ t, exec .unblank (engineAt 6) = .next t ∧ (List.range 16)[0]? = some t.sel ∧ (List.range 16)[15]? ≠ some t.sel :=
  ⟨by decide, inv_engineAt 6, _, rfl, by decide, by decide⟩
theorem witness_TreloadStartsThePlanesDuration :
    (lastCursor (engineAt 7)).phase = Phase.treload ∧ (lastCursor (engineAt 7)).cfg.Wf ∧
    (lastCursor (engineAt 7)).bitPlane.toNat < (lastCursor (engineAt 7)).cfg.bitDepth := by decide
theorem witness_AdvanceMovesTheCursorAndReturns :
    (engineAt 8).phase = Phase.advance ∧ (engineAt 8).cfg.Wf ∧ (engineAt 8).bitPlane.toNat + 1 < (engineAt 8).cfg.bitDepth ∧
    (lastCursor (engineAt 8)).phase = Phase.advance ∧
    (lastCursor (engineAt 8)).bitPlane.toNat + 1 = (lastCursor (engineAt 8)).cfg.bitDepth ∧
    (∃ t, exec .advance { engineAt 8 with tPend := true } = .next t) ∧ (engineAt 8).initDone = true ∧
    (∃ t, exec .advance (drawing (engineAt 8)) = .next t) ∧ (drawing (engineAt 8)).hCmd ≠ none ∧
    decodeHost [0x20000000] ≠ .incomplete :=
  ⟨by decide, by decide, by decide, by decide, by decide, next_of_isSome (by decide), by decide,
    next_of_isSome (by decide), by decide, by decide⟩
theorem witness_EngineNeverWritesHostState :
    Instr.shift.isHost = false ∧ ∃ t, exec .shift (engineAt 4) = .next t := ⟨by decide, next_of_isSome (by decide)⟩
theorem witness_OperationsOutsideTheirPhaseAreRefused :
    encode .tstop = .phase 1 ∧ ready.phase ≠ 1 ∧ ready.tPend = false ∧ State.reset.initDone = false ∧
    9 ≤ { ready with phase := 9 }.phase.toNat ∧ 9 ≤ { ready with phase := 15 }.phase.toNat := by decide
theorem witness_TickCountsDownAndReloads :
    ready.tEn = false ∧ counting.tEn = true ∧ 2 ≤ counting.tCount ∧ { counting with tCount := 1 }.tCount ≤ 1 := by decide
theorem witness_ExpiryIsLatchedAtTheLoadedTick :
    counting.tEn = true ∧ counting.tPend = false ∧ 1 ≤ counting.tCount := by decide
theorem witness_InvocationRunsToCompletionInFortySteps :
    (engineAt 1).phase ≠ Phase.idle ∧ Inv (engineAt 8) ∧ chosenAgent { engineAt 8 with sched := [.engine] } = .engine ∧
    Inv (engineAt 0) ∧ entryEnabled (engineAt 0) = true :=
  ⟨by decide, inv_engineAt 8, by decide, inv_engineAt 0, by decide⟩
/-- By hand from R152 to R160: the phase and column after the first, the 36th and the last step. -/
theorem test_phaseAfter :
    phaseAfter 1 = Phase.tstop ∧ phaseAfter 4 = Phase.shift ∧ columnAfter 35 = 31 ∧ phaseAfter 35 = Phase.shift ∧
    phaseAfter 36 = Phase.latch ∧ phaseAfter 39 = Phase.advance ∧ phaseAfter 40 = Phase.idle := by decide
theorem witness_InvocationIsOneBigStep :
    (fun s : State => s.cfg.Wf ∧ s.phase = Phase.idle ∧ s.tPend = true ∧ s.initDone = true ∧ s.pSr.length = 32 ∧
      s.cfg.rowSelectMap[s.rowPair.toNat]? = some 15 ∧ s.cfg.bcmTable[s.bitPlane.toNat]? = some 2048)
      (lastCursor (engineAt 0)) := by decide
theorem witness_InvocationIsTheSameUnderAnyInterleaving :
    (fun s : State => s.cfg.Wf ∧ s.phase = Phase.idle ∧ s.tPend = true ∧ s.initDone = true ∧ s.pSr.length = 32 ∧
      s.cfg.rowSelectMap[s.rowPair.toNat]? = some 0 ∧ s.cfg.bcmTable[s.bitPlane.toNat]? = some 16 ∧
      ([Agent.timer, .host] ++ List.replicate 38 Agent.engine).count .engine = 38 ∧
      s.sched = .engine :: (([Agent.timer, .host] ++ List.replicate 38 Agent.engine) ++ .engine :: [.timer]))
      { engineAt 0 with sched := .engine :: (([Agent.timer, .host] ++ List.replicate 38 Agent.engine) ++ .engine :: [.timer]) } := by
  decide
theorem witness_PanelShowsThePlaneOfTheRowPair :
    (fun s : State => s.cfg.Wf ∧ s.phase = Phase.idle ∧ s.tPend = true ∧ s.initDone = true ∧ s.pSr.length = 32 ∧
      s.cfg.rowSelectMap[s.rowPair.toNat]? = some 15 ∧ s.cfg.bcmTable[s.bitPlane.toNat]? = some 2048)
      (lastCursor (engineAt 0)) ∧ (lastCursor (engineAt 0)).cfg.rowSelectMap.Nodup :=
  ⟨witness_InvocationIsOneBigStep, List.nodup_range⟩
theorem witness_CursorVisitsEveryPlaneInOrder :
    ∃ σ : Nat → State, RunUpTo σ 1 ∧ (σ 0).initDone = true ∧ (σ 0).rowPair = 0 ∧ (σ 0).bitPlane = 0 ∧ (σ 1).bitPlane = 1 :=
  ⟨runOf { engineAt 8 with sched := [.engine] }, fun m hm => by obtain rfl : m = 0 := (by omega); rfl, rfl, rfl, rfl, rfl⟩
theorem witness_OnlyAdvanceAndInitDisplayWriteTheCursor :
    ∃ t, step { engineAt 8 with sched := [.engine] } = .next t ∧ t.bitPlane ≠ (engineAt 8).bitPlane := ⟨_, rfl, by decide⟩
theorem witness_FramebufferChangesOnlyByACommandInFlight :
    ∃ t, step { drawing ready with sched := [.host] } = .next t ∧ t.fb ≠ (drawing ready).fb := ⟨_, rfl, by decide⟩
theorem witness_NoStepUndoesSetUp :
    ready.initDone = true ∧ ready.dcValid = true ∧ (engineAt 1).tEn = true ∧
    ∃ t, step { engineAt 1 with sched := [.engine] } = .next t ∧ t.tEn = false :=
  ⟨by decide, by decide, by decide, _, rfl, by decide⟩
theorem witness_OnlySetColorChangesTheDrawColor :
    ∃ t, step { ready with port := [0x10FFFFFF], sched := [.host] } = .next t ∧ t.drawColor ≠ ready.drawColor :=
  ⟨_, rfl, by decide⟩
theorem witness_PinsChangeOnlyInTheirPhases :
    (∃ t, step { lastCursor (engineAt 3) with sched := [.engine] } = .next t ∧ t.sel ≠ (engineAt 3).sel ∧
      t.blank ≠ (engineAt 3).blank ∧ pinEvents t.trace ≠ []) ∧
    (∃ t, step { engineAt 4 with fb := [(0, 1)], sck := true, sched := [.engine] } = .next t ∧ t.d ≠ (engineAt 4).d ∧
      t.sck ≠ true) ∧
    (∃ t, step { engineAt 5 with lat := true, sched := [.engine] } = .next t ∧ t.lat ≠ true) ∧
    ∃ t, step { State.reset with port := [0x80000000], sched := [.host] } = .next t ∧ t.blank ≠ State.reset.blank ∧
      t.initDone = true :=
  ⟨⟨_, rfl, by decide, by decide, by decide⟩, ⟨_, rfl, by decide, by decide⟩, ⟨_, rfl, by decide⟩, _, rfl, by decide, by decide⟩
theorem witness_PictureNeverInfluencesControl :
    withoutPicture { engineAt 4 with sched := [.engine] } = withoutPicture { engineAt 4 with sched := [.engine], fb := [(0, 1)] } ∧
    { engineAt 4 with sched := [.engine] } ≠ { engineAt 4 with sched := [.engine], fb := [(0, 1)] } ∧
    ∃ t, step { engineAt 4 with sched := [.engine] } = .next t := ⟨by decide, by decide, next_of_isSome (by decide)⟩
/-- One tick after the `TRELOAD` of plane 0, whose duration is 16. -/
theorem witness_PlaneStaysVisibleForItsDuration :
    ∃ s t : State, s.cfg.Wf ∧ s.initDone = true ∧ s.blank = false ∧ s.tPend = false ∧
      exec .treload { engineAt 7 with sched := [.timer] } = .next s ∧ (engineAt 7).cfg.bcmTable[(engineAt 7).bitPlane.toNat]? = some 16 ∧
      Reaches 1 s t ∧ tickCount t.trace < tickCount s.trace + 16 :=
  ⟨_, _, by decide, by decide, by decide, by decide, rfl, by decide, rfl, by decide⟩
theorem witness_ExpiryReachesTheEngine :
    ∃ σ : Nat → State, RunUpTo σ 1 ∧ (∀ m, m < 1 → nextAgent (σ m) ≠ .engine) ∧
      (σ 0).phase = Phase.idle ∧ (σ 0).initDone = true ∧ (σ 0).tEn = true ∧ (σ 0).tPend = false ∧ 1 ≤ (σ 0).tCount ∧
      (σ 1).tPend = true :=
  ⟨runOf { counting with tCount := 1, sched := [.timer] }, fun m hm => by obtain rfl : m = 0 := (by omega); rfl,
    fun m hm => by obtain rfl : m = 0 := (by omega); decide, rfl, rfl, rfl, rfl, by decide, rfl⟩
/-- A whole frame of the smallest configuration, one plane of one tick: sixteen invocations and a tick after each. -/
theorem witness_BrightnessIsProportionalToIntensity :
    ∃ σ : Nat → State, RunUpTo σ 656 ∧ Inv (σ 0) ∧ entryEnabled (σ 0) = true ∧ (σ 0).rowPair = 0 ∧ (σ 0).bitPlane = 0 ∧
      (∀ m, m ≤ 656 → (σ m).fb = (σ 0).fb) ∧ entryEnabled (σ 656) = true ∧
      engineSteps Phase.idle σ 656 = 16 * (σ 0).cfg.bitDepth ∧ (σ 0).cfg.rowSelectMap.Nodup ∧ NoOverhead σ 656 ∧
      (σ 0).cfg.bcmTable = Config.defaultTable 1 (σ 0).cfg.bitDepth := by
  obtain ⟨σ, h0, hr, hp, hn⟩ := run_of_countRun (p := quietFrame) (q := atEntry) (n := 656) (s := frameStart)
    (r := fun k t => k == 16 && entryEnabled t) (by decide +kernel)
  simp only [Bool.and_eq_true, beq_iff_eq] at hn
  refine ⟨σ, hr, ?_, by rw [h0]; decide, by rw [h0]; decide, by rw [h0]; decide, fun m hm => ?_, hn.2, ?_, by rw [h0]; decide,
    fun m hm ht => ?_, by rw [h0]; decide⟩
  · rw [h0]
    exact inv_of (by decide) ⟨List.Pairwise.nil, nofun⟩ (by decide +kernel) (by decide +kernel) (by decide +kernel) nofun
      (fun _ => rfl) fun _ => rfl
  · have h1 := hp m hm
    have h2 := hp 0 (Nat.zero_le _)
    simp only [quietFrame, Bool.and_eq_true, beq_iff_eq] at h1 h2
    rw [h1.1, h2.1]
  · rw [h0]
    exact hn.1
  · have h1 := hp m (Nat.le_of_lt hm)
    simp only [quietFrame, ht, bne_self_eq_false, Bool.false_or, Bool.and_eq_true, beq_iff_eq, Bool.not_eq_eq_eq_not,
      Bool.not_true] at h1
    exact h1.2
/-- The same pixel drawn undisturbed, and with a tick before it. -/
theorem witness_CommandIsPreciseUnderAnyInterleaving :
    ∃ σ τ : Nat → State, RunUpTo σ 1 ∧ RunUpTo τ 2 ∧ Inv (σ 0) ∧ Inv (τ 0) ∧ (σ 0).hIdx = 0 ∧ (τ 0).hIdx = 0 ∧
      (σ 0).hChan = .red ∧ (τ 0).hChan = .red ∧ (σ 0).fb = (τ 0).fb ∧
      (∀ k, k < 1 → (σ k).hCmd = some ⟨.drawPixel 31 31, ⟨1, 2, 3⟩⟩) ∧
      (∀ k, k < 2 → (τ k).hCmd = some ⟨.drawPixel 31 31, ⟨1, 2, 3⟩⟩) ∧ (σ 1).hCmd = none ∧ (τ 2).hCmd = none := by
  have inv_drawing : ∀ l, Inv { drawing ready with sched := l } := fun l =>
    inv_of (show Config.cfgEx.Wf by decide) ⟨List.Pairwise.nil, nofun⟩ (inv_drawing_ready.1) (inv_drawing_ready.2.1)
      (inv_drawing_ready.2.2.1) (inv_drawing_ready.2.2.2) (fun _ => rfl) fun _ => rfl
  refine ⟨runOf { drawing ready with sched := [.host] }, runOf { drawing ready with sched := [.timer, .host] }, fun m hm => ?_,
    fun m hm => ?_, inv_drawing _, inv_drawing _, rfl, rfl, rfl, rfl, rfl, fun k hk => ?_, fun k hk => ?_, rfl, rfl⟩
  · obtain rfl : m = 0 := by omega
    rfl
  · obtain rfl | rfl : m = 0 ∨ m = 1 := by omega
    · rfl
    · rfl
  · obtain rfl : k = 0 := by omega
    rfl
  · obtain rfl | rfl : k = 0 ∨ k = 1 := by omega
    · rfl
    · rfl

end Sys2Proof.Tests
end

/-! PROOFS. The scan-out engine's operations, the accounting of expiries and invocations along a run, and an invocation as 40
engine steps (spec/41_scanout_engine.md R152, R153, R160, R161). -/

namespace Sys2Proof.Machine

/-! ## One operation at its phase -/

theorem exec_tstop {s : State} (h : s.phase = Phase.tstop) :
    exec .tstop s = .next { s with tEn := false, phase := Phase.tack } := inPhase_pos h

theorem exec_tack {s : State} (h : s.phase = Phase.tack) :
    exec .tack s = .next { s with tPend := false, phase := Phase.rowsel } := inPhase_pos h

theorem exec_rowsel {s : State} {v : Nat} (h : s.phase = Phase.rowsel) (hv : s.cfg.rowSelect s.rowPair.toNat = some v) :
    exec .rowsel s = .next { emit (.sel v) (emit (.blank true) s) with colCnt := 0, phase := Phase.shift } := by
  change execRowsel s = _
  rw [execRowsel, inPhase_pos h, hv, tableRead_some]

theorem exec_treload {s : State} {v : Nat} (h : s.phase = Phase.treload) (hv : s.cfg.bcm s.bitPlane.toNat = some v) :
    exec .treload s = .next { loadTimer v s with tEn := true, phase := Phase.advance } := by
  change execTreload s = _
  rw [execTreload, inPhase_pos h, hv, tableRead_some]

theorem exec_advance {s : State} (h : s.phase = Phase.advance) :
    exec .advance s = .next (returnToHost (advanceCursor s)) := inPhase_pos h

/-- The codes of R97 that stand for an operation. -/
theorem phase_cases : ∀ p : BitVec 4, p.toNat ≤ 8 →
    p = Phase.idle ∨ p = Phase.tstop ∨ p = Phase.tack ∨ p = Phase.rowsel ∨ p = Phase.shift ∨ p = Phase.latch ∨
      p = Phase.unblank ∨ p = Phase.treload ∨ p = Phase.advance := by decide

/-- An enabled engine step answers a next state: the two tables are read in range. -/
theorem exec_of_engineEnabled {s : State} (hwf : s.cfg.Wf) (hb : s.bitPlane.toNat < s.cfg.bitDepth)
    (hp : s.phase.toNat ≤ 8) (he : engineEnabled s = true) :
    ∃ i t, decodePhase s.phase = some i ∧ exec i s = .next t := by
  rcases phase_cases s.phase hp with h | h | h | h | h | h | h | h | h <;> rw [h]
  · have hen : entryEnabled s = true := by simpa [engineEnabled, h] using he
    exact ⟨.entry, _, rfl, if_pos hen⟩
  · exact ⟨.tstop, _, rfl, exec_tstop h⟩
  · exact ⟨.tack, _, rfl, exec_tack h⟩
  · obtain ⟨v, hv, -⟩ := rowSelect_some hwf s.rowPair
    exact ⟨.rowsel, _, rfl, exec_rowsel h hv⟩
  · exact ⟨.shift, _, rfl, inPhase_pos h⟩
  · exact ⟨.latch, _, rfl, inPhase_pos h⟩
  · exact ⟨.unblank, _, rfl, inPhase_pos h⟩
  · obtain ⟨v, hv, -⟩ := bcm_some hwf hb
    exact ⟨.treload, _, rfl, exec_treload h hv⟩
  · exact ⟨.advance, _, rfl, exec_advance h⟩

/-- The step of the engine, chosen and enabled, is the operation of its phase. -/
theorem step_of_engine {s : State} {i : Instr} (hwf : s.cfg.Wf) (hc : chosenAgent s = .engine)
    (he : engineEnabled s = true) (hd : decodePhase s.phase = some i) : step s = exec i (consumeChoice s) := by
  simp only [step, show s.cfg.failing = none from hwf, nextAgent_engine hc he, agentStep, engineStep, consumeChoice_phase, hd]

/-- The engine, chosen and enabled, is never stuck. -/
theorem step_next_of_engine {s : State} (hwf : s.cfg.Wf) (hb : s.bitPlane.toNat < s.cfg.bitDepth)
    (hp : s.phase.toNat ≤ 8) (hc : chosenAgent s = .engine) (he : engineEnabled s = true) :
    ∃ i t, decodePhase s.phase = some i ∧ exec i (consumeChoice s) = .next t ∧ step s = .next t := by
  obtain ⟨i, t, hd, ht⟩ := exec_of_engineEnabled (s := consumeChoice s) hwf hb hp he
  exact ⟨i, t, hd, ht, (step_of_engine hwf hc he hd).trans ht⟩

/-! ## `TSTOP` (R152) -/

theorem tick_of_stopped {s : State} (h : s.tEn = false) : tick s = { s with trace := s.trace ++ [.tick] } := by
  simp [tick, expires, h]

/-- Settles O33: the invariant keeps `T_EN` at 0 from `TACK` to `TRELOAD`, and a stopped timer's tick only marks the trace. -/
theorem tstopDisablesTheCountdown : Obligations.TstopDisablesTheCountdown := by
  refine ⟨fun s h => exec_tstop h, fun s hinv h2 h7 => ?_, fun s hp => ⟨by simp [hp], rfl, rfl⟩⟩
  obtain ⟨-, -, -, ⟨-, -, -, hstopped, -⟩, -⟩ := hinv
  exact tick_of_stopped (hstopped ⟨h2, h7⟩)

/-! ## `ADVANCE` (R160) -/

theorem lastPlane_of_eq {s : State} (h : s.bitPlane.toNat + 1 = s.cfg.bitDepth) : lastPlane s = true := by
  simp [lastPlane, h]

theorem lastPlane_of_lt {s : State} (h : s.bitPlane.toNat + 1 < s.cfg.bitDepth) : lastPlane s = false := by
  simp [lastPlane, Nat.ne_of_lt h]

/-- Settles O40: the cursor test decides between the two cases, and `PHASE = IDLE` afterwards is what both agents wait for. -/
theorem advanceMovesTheCursorAndReturns : Obligations.AdvanceMovesTheCursorAndReturns := by
  intro s hp
  refine ⟨fun hlast => ⟨_, exec_advance hp, ?_, ?_⟩, fun hwf hlt => ⟨_, exec_advance hp, ?_, ?_⟩, fun t ht => ?_⟩
  · simp [lastPlane_of_eq hlast]
  · simp [returnToHost, advanceCursor, lastPlane_of_eq hlast]
  · obtain ⟨⟨-, hdepth⟩, -⟩ := wf_clauses hwf
    have hroom : s.bitPlane.toNat + 1 < 2 ^ 3 := by omega
    simpa [lastPlane_of_lt hlt] using Nat.mod_eq_of_lt hroom
  · simp [returnToHost, advanceCursor, lastPlane_of_lt hlt]
  · obtain ⟨-, rfl⟩ := execAdvance_next ht
    simp only [hostEnabled_iff, entryEnabled_iff, returnToHost_phase, returnToHost_hCmd, returnToHost_port,
      returnToHost_tPend, returnToHost_initDone, advanceCursor_hCmd, advanceCursor_port, advanceCursor_tPend,
      advanceCursor_initDone, true_and]
    exact ⟨fun h => h.imp_left Option.isSome_iff_ne_none.mpr, fun h1 h2 => ⟨h1, h2⟩⟩

/-! ## `TACK`: one invocation per acknowledged expiry (R153) -/

/-- The part of the invariant that ties a pending expiry to the invocation it causes. -/
structure Interlock (s : State) : Prop where
  beforeInit : s.initDone = false → s.phase = Phase.idle ∧ s.tEn = false ∧ s.tPend = false
  pending : s.phase = Phase.tstop ∨ s.phase = Phase.tack → s.tPend = true
  stopped : 2 ≤ s.phase.toNat ∧ s.phase.toNat ≤ 7 → s.tEn = false
  acknowledged : 3 ≤ s.phase.toNat ∧ s.phase.toNat ≤ 7 → s.tPend = false

theorem Interlock.of_inv {s : State} (h : Inv s) : Interlock s := by
  obtain ⟨-, -, ⟨-, -, -, hinit⟩, ⟨hoff, -, hpending, hstopped, hack, -⟩, -⟩ := h
  refine ⟨fun h0 => ⟨?_, hoff h0⟩, hpending, hstopped, hack⟩
  by_contra hp
  simp [hinit hp] at h0

/-- 1 when the step from `s` is the engine's operation of phase `p`. -/
def engineStepIn (p : BitVec 4) (s : State) : Nat := if nextAgent s = .engine ∧ s.phase = p then 1 else 0

/-- 1 when the step from `s` latches an expiry. -/
def latchStep (s : State) : Nat := if nextAgent s = .timer ∧ expires s = true ∧ s.tPend = false then 1 else 0

/-- 1 between `ENTRY` and `TACK`. -/
def enteredIn (s : State) : Nat := if s.phase = Phase.tstop ∨ s.phase = Phase.tack then 1 else 0

/-- 1 between `TACK` and `ADVANCE`. -/
def ackedIn (s : State) : Nat := if 3 ≤ s.phase.toNat then 1 else 0

/-- 1 while an expiry is pending. -/
def pendingIn (s : State) : Nat := if s.tPend then 1 else 0

theorem pendingIn_eq (s : State) : pendingIn s = s.tPend.toNat := by
  cases h : s.tPend <;> simp [pendingIn, h]

theorem engineSteps_succ_eq (p : BitVec 4) (σ : Nat → State) (n : Nat) :
    engineSteps p σ (n + 1) = engineSteps p σ n + engineStepIn p (σ n) := engineSteps_succ p σ n

theorem latchedExpiries_succ_eq (σ : Nat → State) (n : Nat) :
    latchedExpiries σ (n + 1) = latchedExpiries σ n + latchStep (σ n) := latchedExpiries_succ σ n

/-- What goes in and what comes out of the three accounts in the step from `s` to `t`. -/
structure Balanced (s t : State) : Prop where
  entered : engineStepIn Phase.idle s + enteredIn s = engineStepIn Phase.tack s + enteredIn t
  acked : engineStepIn Phase.tack s + ackedIn s = engineStepIn Phase.advance s + ackedIn t
  pending : latchStep s + pendingIn s = engineStepIn Phase.tack s + pendingIn t

theorem engineStepIn_of_ne {s : State} (h : nextAgent s ≠ .engine) (p : BitVec 4) : engineStepIn p s = 0 :=
  if_neg fun hs => h hs.1

theorem latchStep_of_ne {s : State} (h : nextAgent s ≠ .timer) : latchStep s = 0 := if_neg fun hs => h hs.1

/-- A count completes only outside the stretch from `TACK` to `TRELOAD`, and after `INITDISPLAY`. -/
theorem Interlock.not_expires {s : State} (h : Interlock s)
    (hs : s.initDone = false ∨ (2 ≤ s.phase.toNat ∧ s.phase.toNat ≤ 7)) : expires s = false := by
  have hen : s.tEn = false := hs.elim (fun h0 => (h.beforeInit h0).2.1) h.stopped
  simp [expires, hen]

theorem Interlock.of_tick {s : State} (h : Interlock s) : Interlock (tick s) where
  beforeInit h0 := by
    obtain ⟨hp, hen, hpend⟩ := h.beforeInit h0
    exact ⟨hp, hen, by simp [h.not_expires (.inl h0), hpend]⟩
  pending hp := by simp [h.pending hp]
  stopped := h.stopped
  acknowledged hp := by
    obtain ⟨h3, h7⟩ := hp
    simp [h.not_expires (.inr ⟨Nat.le_of_succ_le h3, h7⟩), h.acknowledged ⟨h3, h7⟩]

theorem balanced_of_timer {s : State} (ha : nextAgent s = .timer) : Balanced s (tick (consumeChoice s)) := by
  have hne : nextAgent s ≠ .engine := by simp [ha]
  constructor <;> simp only [engineStepIn_of_ne hne, Nat.zero_add]
  · rfl
  · rfl
  · have hexp : expires (consumeChoice s) = expires s := rfl
    cases he : expires s <;> cases hp : s.tPend <;> simp [latchStep, pendingIn_eq, ha, hexp, he, hp]

/-- A host step, seen by the accounts: it stays in `IDLE`, and only `INITDISPLAY` writes `INIT_DONE` and `T_PEND`. -/
theorem host_step_control {s t : State} (h : step s = .next t) (ha : nextAgent s = .host) :
    s.phase = Phase.idle ∧ t.phase = Phase.idle ∧
      ((t.initDone = s.initDone ∧ t.tPend = s.tPend ∧ (s.initDone = false → t.tEn = s.tEn)) ∨
        (s.initDone = false ∧ t.initDone = true ∧ t.tPend = false)) := by
  obtain ⟨-, ⟨hb, -⟩ | ⟨hb, -⟩ | ⟨-, hp, c, -, hx⟩ | ⟨-, hp, -, i, rest, hd, hx⟩⟩ := step_cases h
  · simp [ha] at hb
  · simp [ha] at hb
  · obtain ⟨r, col, -, -, -, rfl⟩ := hostCell_next.mp hx
    rcases cellStep_cases c r col (consumeChoice s) with ⟨-, e⟩ | ⟨-, -, e⟩ | ⟨-, -, e⟩ | ⟨-, -, e⟩ <;> rw [e] <;> simp [hp]
  · rcases exec_host_next (decodeHost_command hd).1 hx with
      ⟨-, ⟨-, h0, rfl⟩ | ⟨h1, ⟨-, rfl⟩ | ⟨r, g, b, -, rfl⟩ | ⟨-, rfl⟩ | ⟨-, -, c, rfl, -⟩⟩⟩ <;> simp_all

theorem interlock_balanced_of_host {s t : State} (hi : Interlock s) (h : step s = .next t) (ha : nextAgent s = .host) :
    Interlock t ∧ Balanced s t := by
  obtain ⟨hs, ht, hbits⟩ := host_step_control h ha
  have hpend : t.tPend = s.tPend := by
    rcases hbits with ⟨-, hp, -⟩ | ⟨h0, -, hp⟩
    · exact hp
    · rw [hp, (hi.beforeInit h0).2.2]
  constructor
  · refine ⟨fun h0 => ⟨ht, ?_⟩, by simp [ht], by simp [ht], by simp [ht]⟩
    rcases hbits with ⟨hd, -, hen⟩ | ⟨-, h1, -⟩
    · rw [hd] at h0
      rw [hen h0, hpend]
      exact (hi.beforeInit h0).2
    · simp [h1] at h0
  · have hne : nextAgent s ≠ .engine := by simp [ha]
    have hnt : nextAgent s ≠ .timer := by simp [ha]
    constructor <;> simp [engineStepIn_of_ne hne, latchStep_of_ne hnt, enteredIn, ackedIn, pendingIn, hs, ht, hpend]

/-- Phase by phase: `ENTRY` opens the first account, `TACK` moves it to the second and takes the pending expiry out,
`ADVANCE` closes the second. -/
theorem interlock_balanced_of_engine {s t : State} {i : Instr} (hi : Interlock s) (ha : nextAgent s = .engine)
    (hd : decodePhase s.phase = some i) (hx : exec i (consumeChoice s) = .next t) : Interlock t ∧ Balanced s t := by
  obtain ⟨hinit, hpending, hstopped, hack⟩ := hi
  have hnt : nextAgent s ≠ .timer := by simp [ha]
  rcases engine_cases (s := consumeChoice s) hd hx with
    ⟨hp, hpend, hdone, rfl⟩ | ⟨hp, rfl⟩ | ⟨hp, rfl⟩ | ⟨hp, v, -, rfl⟩ | ⟨hp, rfl⟩ | ⟨hp, rfl⟩ | ⟨hp, rfl⟩ |
    ⟨hp, v, -, rfl⟩ | ⟨hp, rfl⟩
  on_goal 5 => cases hl : lastColumn (consumeChoice s)
  all_goals
    simp only [consumeChoice_phase] at hp
    refine ⟨⟨?_, ?_, ?_, ?_⟩, ⟨?_, ?_, ?_⟩⟩ <;>
      simp_all [engineStepIn, latchStep_of_ne hnt, enteredIn, ackedIn, pendingIn_eq]

theorem interlock_balanced_of_step {s t : State} (hi : Interlock s) (h : step s = .next t) :
    Interlock t ∧ Balanced s t := by
  obtain ⟨-, ⟨ha, rfl⟩ | ⟨ha, -, i, hd, hx⟩ | ⟨ha, -⟩ | ⟨ha, -⟩⟩ := step_cases h
  · have hu : Interlock (consumeChoice s) := ⟨hi.beforeInit, hi.pending, hi.stopped, hi.acknowledged⟩
    exact ⟨hu.of_tick, balanced_of_timer ha⟩
  · exact interlock_balanced_of_engine hi ha hd hx
  · exact interlock_balanced_of_host hi h ha
  · exact interlock_balanced_of_host hi h ha

/-- The three accounts of a run of `n` steps from the host context. -/
structure Accounts (σ : Nat → State) (n : Nat) : Prop where
  entered : engineSteps Phase.idle σ n = engineSteps Phase.tack σ n + enteredIn (σ n)
  acked : engineSteps Phase.tack σ n = engineSteps Phase.advance σ n + ackedIn (σ n)
  pending : pendingIn (σ 0) + latchedExpiries σ n = engineSteps Phase.tack σ n + pendingIn (σ n)

theorem Accounts.zero {σ : Nat → State} (h : (σ 0).phase = Phase.idle) : Accounts σ 0 :=
  ⟨by simp [enteredIn, h], by simp [ackedIn, h], by simp⟩

theorem Accounts.succ {σ : Nat → State} {n : Nat} (h : Accounts σ n) (hb : Balanced (σ n) (σ (n + 1))) :
    Accounts σ (n + 1) := by
  obtain ⟨he, ha, hp⟩ := h
  obtain ⟨he', ha', hp'⟩ := hb
  constructor <;> simp only [engineSteps_succ_eq, latchedExpiries_succ_eq] <;> omega

theorem RunUpTo.accounts {σ : Nat → State} {n : Nat} (h : RunUpTo σ n) (hi : Interlock (σ 0))
    (hp : (σ 0).phase = Phase.idle) : Accounts σ n := by
  refine (h.induct (P := fun m => Interlock (σ m) ∧ Accounts σ m) ⟨hi, .zero hp⟩ (fun m _ hm hstep => ?_) n le_rfl).2
  obtain ⟨hi', hb⟩ := interlock_balanced_of_step hm.1 hstep
  exact ⟨hi', hm.2.succ hb⟩

/-- Settles O34: the interlock is inductive, and every step keeps the three accounts in balance. -/
theorem tackClearsThePendingExpiry : Obligations.TackClearsThePendingExpiry := by
  refine ⟨fun s h => exec_tack h, fun s hinv h3 h7 => ?_, fun σ n hrun hinv hp => ?_⟩
  · have hi := Interlock.of_inv hinv
    exact ⟨hi.acknowledged ⟨h3, h7⟩, hi.of_tick.acknowledged ⟨h3, h7⟩⟩
  · obtain ⟨he, ha, hpend⟩ := hrun.accounts (.of_inv hinv) hp
    exact ⟨he, ha, hpend⟩

/-! ## An invocation is 40 engine steps (R161) -/

/-- Where the sequencer goes from phase `p` and column `c`: nothing else decides it. -/
def sequencerSucc (p : BitVec 4) (c : BitVec 5) : BitVec 4 × BitVec 5 :=
  if p = Phase.rowsel then (Phase.shift, 0)
  else if p = Phase.shift then (if c = 31 then (Phase.latch, 0) else (Phase.shift, c + 1))
  else if p = Phase.advance then (Phase.idle, c)
  else (p + 1, c)

/-- An operation of the sequencer moves phase and column as `sequencerSucc` says, and only `ADVANCE` moves the cursor. -/
theorem exec_engine_sequence {s t : State} {i : Instr} (hd : decodePhase s.phase = some i) (h : exec i s = .next t) :
    (t.phase, t.colCnt) = sequencerSucc s.phase s.colCnt ∧ t.cfg = s.cfg ∧ t.sched = s.sched ∧
      (s.phase ≠ Phase.advance → t.rowPair = s.rowPair ∧ t.bitPlane = s.bitPlane) := by
  rcases engine_cases hd h with
    ⟨hp, -, -, rfl⟩ | ⟨hp, rfl⟩ | ⟨hp, rfl⟩ | ⟨hp, v, -, rfl⟩ | ⟨hp, rfl⟩ | ⟨hp, rfl⟩ | ⟨hp, rfl⟩ |
    ⟨hp, v, -, rfl⟩ | ⟨hp, rfl⟩
  case inr.inr.inr.inr.inl =>
    by_cases hl : s.colCnt = 31#5 <;> simp [sequencerSucc, lastColumn, hp, hl]
  all_goals simp [sequencerSucc, hp]

/-- The number of engine steps alone tells phase and column. -/
theorem sequencerSucc_phaseAfter : ∀ k < 40,
    sequencerSucc (phaseAfter k) (BitVec.ofNat 5 (columnAfter k)) =
      (phaseAfter (k + 1), BitVec.ofNat 5 (columnAfter (k + 1))) := by decide

theorem phaseAfter_ne_idle : ∀ k < 40, 0 < k → phaseAfter k ≠ Phase.idle := by decide

theorem phaseAfter_ne_advance : ∀ k < 39, phaseAfter k ≠ Phase.advance := by decide

theorem phaseAfter_legal : ∀ k < 40, (phaseAfter k).toNat ≤ 8 := by decide

theorem columnAfter_toNat (k : Nat) : (BitVec.ofNat 5 (columnAfter k)).toNat = columnAfter k := by
  rw [BitVec.toNat_ofNat, Nat.mod_eq_of_lt]
  unfold columnAfter
  split <;> omega

/-- `s` stands after `k` engine steps of the invocation that began in `s₀`. -/
structure InvocationAt (s₀ : State) (k : Nat) (s : State) : Prop where
  cfg : s.cfg = s₀.cfg
  phase : s.phase = phaseAfter k
  column : s.colCnt = BitVec.ofNat 5 (columnAfter k)
  enabled : k = 0 → entryEnabled s = true
  cursor : k < 40 → s.rowPair = s₀.rowPair ∧ s.bitPlane = s₀.bitPlane

theorem InvocationAt.isEnabled {s₀ s : State} {k : Nat} (h : InvocationAt s₀ k s) (hk : k < 40) :
    engineEnabled s = true := by
  rcases Nat.eq_zero_or_pos k with h0 | hpos
  · simp [engineEnabled, h.enabled h0]
  · exact (engineEnabled_iff s).mpr (.inl (h.phase ▸ phaseAfter_ne_idle k hk hpos))

/-- The next engine step of an invocation. -/
theorem InvocationAt.succ {s₀ s : State} {k : Nat} {tl : List Agent} (h : InvocationAt s₀ k s) (hk : k < 40)
    (hwf : s₀.cfg.Wf) (hb : s₀.bitPlane.toNat < s₀.cfg.bitDepth) (hs : s.sched = .engine :: tl) :
    ∃ t, step s = .next t ∧ t.sched = tl ∧ InvocationAt s₀ (k + 1) t := by
  obtain ⟨hrow, hplane⟩ := h.cursor hk
  have hc : chosenAgent s = .engine := by simp [chosenAgent, hs]
  obtain ⟨i, t, hd, hx, hstep⟩ := step_next_of_engine (h.cfg ▸ hwf) (by rw [hplane, h.cfg]; exact hb)
    (h.phase ▸ phaseAfter_legal k hk) hc (h.isEnabled hk)
  obtain ⟨hseq, hcfg, hsched, hcur⟩ := exec_engine_sequence (s := consumeChoice s) hd hx
  simp only [consumeChoice_phase, consumeChoice_colCnt, h.phase, h.column, sequencerSucc_phaseAfter k hk,
    Prod.mk.injEq] at hseq
  refine ⟨t, hstep, by simp [hsched, hs], hcfg.trans h.cfg, hseq.1, hseq.2, by simp, fun hk' => ?_⟩
  obtain ⟨hr, hp⟩ := hcur (h.phase ▸ phaseAfter_ne_advance k (by omega))
  exact ⟨hr.trans hrow, hp.trans hplane⟩

theorem run_succ {M : Host.Core} {s t : M.State} (h : M.step s = .next t) (n : Nat) : M.run (n + 1) s = M.run n t := by
  rw [Host.Core.run, h]

theorem Reaches.of_step {n : Nat} {s t u : State} (h : step s = .next t) (hr : Reaches n t u) : Reaches (n + 1) s u :=
  (run_succ (M := Sys2Proof.core) h n).trans hr

/-- `m` further engine steps of an invocation, with the engine chosen for each. -/
theorem InvocationAt.reaches {s₀ : State} (hwf : s₀.cfg.Wf) (hb : s₀.bitPlane.toNat < s₀.cfg.bitDepth) {tl : List Agent} :
    ∀ (m k : Nat) (s : State), InvocationAt s₀ k s → k + m ≤ 40 → s.sched = List.replicate m .engine ++ tl →
      ∃ t, Reaches m s t ∧ InvocationAt s₀ (k + m) t := by
  intro m
  induction m with
  | zero => exact fun k s h _ _ => ⟨s, rfl, h⟩
  | succ m ih =>
    intro k s h hk hs
    obtain ⟨t, hstep, ht, hat⟩ := h.succ (by omega) hwf hb hs
    obtain ⟨u, hu, hend⟩ := ih (k + 1) t hat (by omega) ht
    exact ⟨u, .of_step hstep hu, by rwa [show k + (m + 1) = k + 1 + m by omega]⟩

theorem InvocationAt.start {s : State} (h : Inv s) (he : entryEnabled s = true) (n : Nat) :
    InvocationAt s 0 (engineTurn n s) := by
  obtain ⟨-, -, ⟨-, -, hcol, -⟩, -⟩ := h
  have hp := ((entryEnabled_iff s).mp he).1
  exact ⟨rfl, hp, hcol (by simp [hp]), fun _ => he, fun _ => ⟨rfl, rfl⟩⟩

theorem nextAgent_ne_host {s : State} (h : s.phase ≠ Phase.idle) : nextAgent s ≠ .host := by
  rcases nextAgent_enabled s with ha | ⟨-, he, -⟩ | ⟨ha, -⟩
  · simp [ha]
  · exact absurd ((hostEnabled_iff s).mp he).1 h
  · simp [ha]

theorem entryEnabled_of_phase_ne {s : State} (h : s.phase ≠ Phase.idle) : entryEnabled s = false :=
  Bool.eq_false_iff.mpr fun he => h ((entryEnabled_iff s).mp he).1

theorem decodePhase_entry {p : BitVec 4} (h : decodePhase p = some .entry) : p = Phase.idle :=
  (Code.phase.inj (decodePhase_some h).1).symm

/-- Settles O46: `sequencerSucc` drives each of the 40 steps, so the number of steps fixes phase and column. -/
theorem invocationRunsToCompletionInFortySteps : Obligations.InvocationRunsToCompletionInFortySteps := by
  refine ⟨fun s hp => ⟨nextAgent_ne_host hp, entryEnabled_of_phase_ne hp, fun hd => hp (decodePhase_entry hd)⟩,
    fun s hinv hp hc => ?_, fun s hinv he n hn => ?_⟩
  · obtain ⟨hwf, -, ⟨hlegal, hb, -⟩, -⟩ := hinv
    have hen := (engineEnabled_iff s).mpr (.inl hp)
    obtain ⟨-, t, -, -, ht⟩ := step_next_of_engine hwf hb hlegal hc hen
    exact ⟨nextAgent_engine hc hen, t, ht⟩
  · have hstart := InvocationAt.start hinv he n
    obtain ⟨hwf, -, ⟨-, hb, -⟩, -⟩ := hinv
    obtain ⟨t, hreach, hat⟩ := hstart.reaches hwf hb n 0 (engineTurn n s) (by omega) rfl
    rw [Nat.zero_add] at hat
    exact ⟨t, hreach, hat.phase, hat.column ▸ columnAfter_toNat n, hat.cursor⟩

end Sys2Proof.Machine

/-! PROOFS. Taking the display interrupt: control transfer, and the handler's own mask (spec/60_exceptions.md R196). -/

namespace Sys2Proof.Machine

theorem exec_entry {s : State} (he : entryEnabled s = true) : exec .entry s = .next (takeDisplayInterrupt s) := if_pos he

/-- The handler masks its own source. -/
theorem exec_tstop_tEn {s t : State} (h : exec .tstop s = .next t) : t.tEn = false := by
  obtain ⟨-, rfl⟩ := execTstop_next h
  rfl

/-- The handler opens its source again. -/
theorem exec_treload_tEn {s t : State} (h : exec .treload s = .next t) : t.tEn = true := by
  obtain ⟨-, _, -, rfl⟩ := execTreload_next h
  rfl

/-- Settles O32: the three premises are what enables `ENTRY`, which takes the interrupt by writing `PHASE`; the mask is read
off what `TSTOP` and `TRELOAD` can answer. -/
theorem entryTakesTheDisplayInterrupt : Obligations.EntryTakesTheDisplayInterrupt := by
  refine ⟨fun s hp ht hi => ?_, by decide, fun _ _ => exec_tstop_tEn, fun _ _ => exec_treload_tEn⟩
  have he : entryEnabled s = true := (entryEnabled_iff s).mpr ⟨hp, ht, hi⟩
  exact exec_entry he

end Sys2Proof.Machine

/-! PROOFS. The encodings: each format's words told by their fields, and the round trip of decoder and encoder
(spec/30_encoding.md R90 to R97). -/

namespace Sys2Proof

open Machine

/-! ## Words by their fields (R92) -/

/-- The fields of formats C and L, put together again. -/
theorem word_eq_fields3 (w : Word) :
    (w.extractLsb' 28 4 ++ w.extractLsb' 24 4) ++ (operand w 16 ++ (operand w 8 ++ operand w 0)) = w := by
  unfold operand
  rw [BitVec.extractLsb'_append_extractLsb'_eq_extractLsb' (by rfl), BitVec.extractLsb'_append_extractLsb'_eq_extractLsb' (by rfl),
    BitVec.extractLsb'_append_extractLsb'_eq_extractLsb' (by rfl), BitVec.extractLsb'_append_extractLsb'_eq_extractLsb' (by rfl)]
  simp

theorem word_eq_fields2 (w : Word) :
    (w.extractLsb' 28 4 ++ w.extractLsb' 16 12) ++ (operand w 8 ++ operand w 0) = w := by
  unfold operand
  rw [BitVec.extractLsb'_append_extractLsb'_eq_extractLsb' (by rfl), BitVec.extractLsb'_append_extractLsb'_eq_extractLsb' (by rfl),
    BitVec.extractLsb'_append_extractLsb'_eq_extractLsb' (by rfl)]
  simp

theorem word_eq_fields0 (w : Word) : w.extractLsb' 28 4 ++ w.extractLsb' 0 28 = w := by
  rw [BitVec.extractLsb'_append_extractLsb'_eq_extractLsb' (by rfl)]
  simp

theorem word3_of_fields {w : Word} {op : BitVec 4} (h : w.extractLsb' 28 4 = op ∧ w.extractLsb' 24 4 = 0#4) :
    w = word3 op (operand w 16) (operand w 8) (operand w 0) := by
  rw [word3, ← h.1, ← h.2, word_eq_fields3]

theorem word2_of_fields {w : Word} {op : BitVec 4} (h : w.extractLsb' 28 4 = op ∧ w.extractLsb' 16 12 = 0#12) :
    w = word2 op (operand w 8) (operand w 0) := by
  rw [word2, ← h.1, ← h.2, word_eq_fields2]

theorem word0_of_fields {w : Word} {op : BitVec 4} (h : w.extractLsb' 28 4 = op ∧ w.extractLsb' 0 28 = 0#28) :
    w = word0 op := by
  rw [word0, ← h.1, ← h.2, word_eq_fields0]

/-! ## Masks by fields (R95, R96) -/

/-- A word under the mask of formats C and L. -/
theorem and_mask3_iff {w : Word} {op : BitVec 4} :
    w &&& 0xFF000000#32 = op ++ 0#28 ↔ w.extractLsb' 28 4 = op ∧ w.extractLsb' 24 4 = 0#4 := by
  constructor
  · intro h
    have hop := congrArg (BitVec.extractLsb' 28 4) h
    have hz := congrArg (BitVec.extractLsb' 24 4) h
    rw [extract_and, show (0xFF000000#32).extractLsb' 28 4 = BitVec.allOnes 4 by decide, BitVec.and_allOnes,
      Laws.WordCount.extract_append_all] at hop
    rw [extract_and, show (0xFF000000#32).extractLsb' 24 4 = BitVec.allOnes 4 by decide, BitVec.and_allOnes,
      extract_append_lower _ _ _ _ (by decide)] at hz
    exact ⟨hop, hz⟩
  · intro h
    rw [word3_of_fields h, and_word3]

/-- A word under the mask of format P. -/
theorem and_mask2_iff {w : Word} {op : BitVec 4} :
    w &&& 0xFFFF0000#32 = op ++ 0#28 ↔ w.extractLsb' 28 4 = op ∧ w.extractLsb' 16 12 = 0#12 := by
  constructor
  · intro h
    have hop := congrArg (BitVec.extractLsb' 28 4) h
    have hz := congrArg (BitVec.extractLsb' 16 12) h
    rw [extract_and, show (0xFFFF0000#32).extractLsb' 28 4 = BitVec.allOnes 4 by decide, BitVec.and_allOnes,
      Laws.WordCount.extract_append_all] at hop
    rw [extract_and, show (0xFFFF0000#32).extractLsb' 16 12 = BitVec.allOnes 12 by decide, BitVec.and_allOnes,
      extract_append_lower _ _ _ _ (by decide)] at hz
    exact ⟨hop, hz⟩
  · intro h
    rw [word2_of_fields h, and_word2]

/-- A word under the full mask of format Z. -/
theorem and_mask0_iff {w : Word} {op : BitVec 4} :
    w &&& 0xFFFFFFFF#32 = op ++ 0#28 ↔ w.extractLsb' 28 4 = op ∧ w.extractLsb' 0 28 = 0#28 := by
  have hall : (0xFFFFFFFF#32) = BitVec.allOnes 32 := by decide
  rw [hall, BitVec.and_allOnes]
  constructor
  · rintro rfl
    exact ⟨Laws.WordCount.extract_append_all _ _, by
      rw [extract_append_lower _ _ _ _ (by decide), BitVec.extractLsb'_eq_self]⟩
  · exact word0_of_fields

/-! ## The row a word selects -/

/-- A row's operation is told from its word alone, both ways. -/
theorem hostOpOf_iff {r : OpRow} (hr : r ∈ hostRows) {w : Word} : hostOpOf w = some r.op ↔ r.selects w = true := by
  refine ⟨fun h => ?_, hostOpOf_selects hr⟩
  have one_row : ∀ x ∈ hostRows, ∀ y ∈ hostRows, x.op = y.op → x = y := by decide
  obtain ⟨x, hx, hop⟩ := Option.map_eq_some_iff.mp h
  rw [← one_row x (List.mem_of_find?_eq_some hx) r hr hop]
  exact List.find?_some (p := fun r : OpRow => r.selects w) hx

/-- The rows of formats C and L. -/
theorem hostOpOf_mask3 {h : HostOp} {op : BitVec 4} (hr : ⟨op ++ 0#28, 0xFF000000, h⟩ ∈ hostRows) {w : Word} :
    hostOpOf w = some h ↔ w.extractLsb' 28 4 = op ∧ w.extractLsb' 24 4 = 0#4 := by
  exact (hostOpOf_iff hr).trans (beq_iff_eq.trans and_mask3_iff)

/-- The row of format P. -/
theorem hostOpOf_mask2 {h : HostOp} {op : BitVec 4} (hr : ⟨op ++ 0#28, 0xFFFF0000, h⟩ ∈ hostRows) {w : Word} :
    hostOpOf w = some h ↔ w.extractLsb' 28 4 = op ∧ w.extractLsb' 16 12 = 0#12 := by
  exact (hostOpOf_iff hr).trans (beq_iff_eq.trans and_mask2_iff)

/-- The rows of format Z. -/
theorem hostOpOf_mask0 {h : HostOp} {op : BitVec 4} (hr : ⟨op ++ 0#28, 0xFFFFFFFF, h⟩ ∈ hostRows) {w : Word} :
    hostOpOf w = some h ↔ w.extractLsb' 28 4 = op ∧ w.extractLsb' 0 28 = 0#28 := by
  exact (hostOpOf_iff hr).trans (beq_iff_eq.trans and_mask0_iff)

theorem hostOpOf_eq_setColor {w : Word} :
    hostOpOf w = some .setColor ↔ w.extractLsb' 28 4 = 0x1#4 ∧ w.extractLsb' 24 4 = 0#4 := hostOpOf_mask3 (by decide)

theorem hostOpOf_eq_clear {w : Word} :
    hostOpOf w = some .clear ↔ w.extractLsb' 28 4 = 0x2#4 ∧ w.extractLsb' 0 28 = 0#28 := hostOpOf_mask0 (by decide)

theorem hostOpOf_eq_fillSolid {w : Word} :
    hostOpOf w = some .fillSolid ↔ w.extractLsb' 28 4 = 0x3#4 ∧ w.extractLsb' 0 28 = 0#28 := hostOpOf_mask0 (by decide)

theorem hostOpOf_eq_drawPixel {w : Word} :
    hostOpOf w = some .drawPixel ↔ w.extractLsb' 28 4 = 0x4#4 ∧ w.extractLsb' 16 12 = 0#12 := hostOpOf_mask2 (by decide)

theorem hostOpOf_eq_drawRowRun {w : Word} :
    hostOpOf w = some .drawRowRun ↔ w.extractLsb' 28 4 = 0x5#4 ∧ w.extractLsb' 24 4 = 0#4 := hostOpOf_mask3 (by decide)

theorem hostOpOf_eq_drawColRun {w : Word} :
    hostOpOf w = some .drawColRun ↔ w.extractLsb' 28 4 = 0x6#4 ∧ w.extractLsb' 24 4 = 0#4 := hostOpOf_mask3 (by decide)

theorem hostOpOf_eq_drawMasked {w : Word} :
    hostOpOf w = some .drawMasked ↔ w.extractLsb' 28 4 = 0x7#4 ∧ w.extractLsb' 0 28 = 0#28 := hostOpOf_mask0 (by decide)

theorem hostOpOf_eq_initDisplay {w : Word} :
    hostOpOf w = some .initDisplay ↔ w.extractLsb' 28 4 = 0x8#4 ∧ w.extractLsb' 0 28 = 0#28 := hostOpOf_mask0 (by decide)

theorem hostOpOf_eq_schedEnable {w : Word} :
    hostOpOf w = some .schedEnable ↔ w.extractLsb' 28 4 = 0x9#4 ∧ w.extractLsb' 0 28 = 0#28 := hostOpOf_mask0 (by decide)

/-! ## What the decoder answers on each row's words -/

theorem decodeHost_setColor (r g b : Byte) (rest : List Word) :
    decodeHost (word3 0x1 r g b :: rest) = .command (.setColor r g b) rest := by
  obtain ⟨hr, hg, hb⟩ := operand_word3 0x1 r g b
  simp only [decodeHost, hostOpOf_setColor, hr, hg, hb]

theorem decodeHost_clear (rest : List Word) : decodeHost (word0 0x2 :: rest) = .command .clear rest := rfl

theorem decodeHost_fillSolid (rest : List Word) : decodeHost (word0 0x3 :: rest) = .command .fillSolid rest := rfl

theorem decodeHost_drawPixel (row col : Byte) (rest : List Word) :
    decodeHost (word2 0x4 row col :: rest) = .command (.drawPixel row col) rest := by
  obtain ⟨hr, hc⟩ := operand_word2 0x4 row col
  simp only [decodeHost, hostOpOf_drawPixel, hr, hc]

theorem decodeHost_drawRowRun (row c n : Byte) (rest : List Word) :
    decodeHost (word3 0x5 row c n :: rest) = .command (.drawRowRun row c n) rest := by
  obtain ⟨h1, h2, h3⟩ := operand_word3 0x5 row c n
  simp only [decodeHost, hostOpOf_drawRowRun, h1, h2, h3]

theorem decodeHost_drawColRun (col r n : Byte) (rest : List Word) :
    decodeHost (word3 0x6 col r n :: rest) = .command (.drawColRun col r n) rest := by
  obtain ⟨h1, h2, h3⟩ := operand_word3 0x6 col r n
  simp only [decodeHost, hostOpOf_drawColRun, h1, h2, h3]

/-- The payload is whatever 32 words follow, and none of them is read. -/
theorem decodeHost_drawMasked (ws : List Word) :
    decodeHost (word0 0x7 :: ws) =
      if ws.length < 32 then .incomplete else .command (.drawMasked (ws.take 32)) (ws.drop 32) := rfl

theorem decodeHost_initDisplay (rest : List Word) : decodeHost (word0 0x8 :: rest) = .command .initDisplay rest := rfl

theorem decodeHost_schedEnable (rest : List Word) : decodeHost (word0 0x9 :: rest) = .command .schedEnable rest := rfl

/-! ## The round trip -/

/-- A command's words in front of others decode to it, with the others left over. -/
theorem decodeHost_commandWords {i : Instr} (rest : List Word) (hw : i.wellFormed = true) (hh : i.isHost = true) :
    decodeHost (commandWords i ++ rest) = .command i rest := by
  cases i with
  | setColor r g b => exact decodeHost_setColor r g b rest
  | clear => exact decodeHost_clear rest
  | fillSolid => exact decodeHost_fillSolid rest
  | drawPixel row col => exact decodeHost_drawPixel row col rest
  | drawRowRun row c n => exact decodeHost_drawRowRun row c n rest
  | drawColRun col r n => exact decodeHost_drawColRun col r n rest
  | drawMasked g =>
    have hg : g.length = 32 := by simpa [Instr.wellFormed] using hw
    refine (decodeHost_drawMasked (g ++ rest)).trans ?_
    rw [if_neg (by simp [hg]), ← hg, List.take_left, List.drop_left]
  | initDisplay => exact decodeHost_initDisplay rest
  | schedEnable => exact decodeHost_schedEnable rest
  | entry => cases hh
  | tstop => cases hh
  | tack => cases hh
  | rowsel => cases hh
  | shift => cases hh
  | latch => cases hh
  | unblank => cases hh
  | treload => cases hh
  | advance => cases hh

/-- A command taken off the front leaves its words in front of the rest: the other way round. -/
theorem commandWords_of_decodeHost {ws rest : List Word} {i : Instr} (h : decodeHost ws = .command i rest) :
    commandWords i ++ rest = ws := by
  cases ws with
  | nil => cases h
  | cons w ws =>
    simp only [decodeHost] at h
    split at h
    case h_1 => cases h
    case h_2 ho =>
      cases h
      exact congrArg (· :: rest) (word3_of_fields (hostOpOf_eq_setColor.mp ho)).symm
    case h_3 ho =>
      cases h
      exact congrArg (· :: rest) (word0_of_fields (hostOpOf_eq_clear.mp ho)).symm
    case h_4 ho =>
      cases h
      exact congrArg (· :: rest) (word0_of_fields (hostOpOf_eq_fillSolid.mp ho)).symm
    case h_5 ho =>
      cases h
      exact congrArg (· :: rest) (word2_of_fields (hostOpOf_eq_drawPixel.mp ho)).symm
    case h_6 ho =>
      cases h
      exact congrArg (· :: rest) (word3_of_fields (hostOpOf_eq_drawRowRun.mp ho)).symm
    case h_7 ho =>
      cases h
      exact congrArg (· :: rest) (word3_of_fields (hostOpOf_eq_drawColRun.mp ho)).symm
    case h_8 ho =>
      split at h
      · cases h
      · cases h
        rw [word0_of_fields (hostOpOf_eq_drawMasked.mp ho)]
        exact congrArg (_ :: ·) (List.take_append_drop 32 ws)
    case h_9 ho =>
      cases h
      exact congrArg (· :: rest) (word0_of_fields (hostOpOf_eq_initDisplay.mp ho)).symm
    case h_10 ho =>
      cases h
      exact congrArg (· :: rest) (word0_of_fields (hostOpOf_eq_schedEnable.mp ho)).symm

/-- A host command's encoding is its words. -/
theorem encode_of_isHost {i : Instr} (h : i.isHost = true) : encode i = .words (commandWords i) := by
  cases i with
  | setColor | clear | fillSolid | drawPixel | drawRowRun | drawColRun | drawMasked | initDisplay | schedEnable => rfl
  | entry | tstop | tack | rowsel | shift | latch | unblank | treload | advance => cases h

/-- A sequencer operation's encoding is a phase code that stands for it. -/
theorem encode_of_not_isHost {i : Instr} (h : i.isHost = false) : ∃ c, encode i = .phase c ∧ decodePhase c = some i := by
  cases i with
  | setColor | clear | fillSolid | drawPixel | drawRowRun | drawColRun | drawMasked | initDisplay | schedEnable => cases h
  | entry | tstop | tack | rowsel | shift | latch | unblank | treload | advance => exact ⟨_, rfl, rfl⟩

theorem decode_words_some {ws : List Word} {i : Instr} : decode (.words ws) = some i ↔ decodeHost ws = .command i [] := by
  simp only [decode]
  split <;> simp_all

/-- Settles O1: the words of each format select their row and give their fields back. -/
theorem decodeOfEncodeIsTheInstruction : Obligations.DecodeOfEncodeIsTheInstruction := by
  refine ⟨fun i hw => ?_, fun i rest => decodeHost_commandWords rest⟩
  cases hh : i.isHost with
  | true =>
    have h := decodeHost_commandWords [] hw hh
    rw [encode_of_isHost hh, decode_words_some, ← List.append_nil (commandWords i), h]
  | false =>
    obtain ⟨c, he, hd⟩ := encode_of_not_isHost hh
    rw [he]
    exact hd

/-- Settles O2: a row's mask and code say exactly which fields a word of its format has. -/
theorem encodeOfDecodeIsTheCode : Obligations.EncodeOfDecodeIsTheCode := by
  refine ⟨fun c i h => ?_, fun ws rest i h => ?_⟩
  · cases c with
    | words ws =>
      have hd := decode_words_some.mp h
      obtain ⟨hh, hw⟩ := decodeHost_command hd
      refine ⟨hw, ?_⟩
      rw [encode_of_isHost hh, ← commandWords_of_decodeHost hd, List.append_nil]
    | phase c =>
      obtain ⟨he, hh⟩ := decodePhase_some h
      refine ⟨?_, he⟩
      cases i with
      | drawMasked => cases hh
      | _ => rfl
  · obtain ⟨hh, hw⟩ := decodeHost_command h
    exact ⟨hh, hw, commandWords_of_decodeHost h⟩

/-! ## Reserved words (R96) -/

theorem decodeHost_reserved_iff {w : Word} {rest : List Word} :
    decodeHost (w :: rest) = .reserved w ↔ hostOpOf w = none := by
  simp only [decodeHost]
  split
  case h_1 ho => simp [ho]
  case h_8 ho => split <;> simp [ho]
  all_goals simp [*]

theorem hostOpOf_none_iff {w : Word} : hostOpOf w = none ↔ ∀ h, hostOpOf w ≠ some h := Option.eq_none_iff_forall_ne_some

theorem op_cases : ∀ op : BitVec 4, (op = 0 ∨ 10 ≤ op.toNat) ∨ op = 1 ∨ op = 2 ∨ op = 3 ∨ op = 4 ∨ op = 5 ∨ op = 6 ∨
    op = 7 ∨ op = 8 ∨ op = 9 := by decide

/-- Settles O3: two selected rows share the word's `OP`; and a word is reserved when no row's fields fit, `OP` by `OP`. -/
theorem wordsSelectOneRowOrAreReserved : Obligations.WordsSelectOneRowOrAreReserved := by
  refine ⟨fun w x y hx hy hsx hsy => row_of_op hx hy ((selects_op hx hsx).symm.trans (selects_op hy hsy)), fun w rest => ?_⟩
  rw [decodeHost_reserved_iff, hostOpOf_none_iff]
  have hrows : (∀ h, hostOpOf w ≠ some h) ↔
      hostOpOf w ≠ some .setColor ∧ hostOpOf w ≠ some .clear ∧ hostOpOf w ≠ some .fillSolid ∧
      hostOpOf w ≠ some .drawPixel ∧ hostOpOf w ≠ some .drawRowRun ∧ hostOpOf w ≠ some .drawColRun ∧
      hostOpOf w ≠ some .drawMasked ∧ hostOpOf w ≠ some .initDisplay ∧ hostOpOf w ≠ some .schedEnable :=
    ⟨fun h => ⟨h _, h _, h _, h _, h _, h _, h _, h _, h _⟩, fun h x => by cases x <;> simp_all⟩
  rw [hrows]
  simp only [ne_eq, hostOpOf_eq_setColor, hostOpOf_eq_clear, hostOpOf_eq_fillSolid, hostOpOf_eq_drawPixel,
    hostOpOf_eq_drawRowRun, hostOpOf_eq_drawColRun, hostOpOf_eq_drawMasked, hostOpOf_eq_initDisplay,
    hostOpOf_eq_schedEnable]
  generalize w.extractLsb' 28 4 = op
  rcases op_cases op with (rfl | hbig) | rfl | rfl | rfl | rfl | rfl | rfl | rfl | rfl | rfl
  case inl.inr =>
    have hne : ∀ k : BitVec 4, k.toNat < 10 → op ≠ k := by
      rintro k hk rfl
      omega
    simp [hbig, hne]
  all_goals simp

/-! ## Payload, samples, and placed words -/

/-- Settles O4, by the row of format L alone. -/
theorem maskedCommandTakesThirtyTwoPayloadWords : Obligations.MaskedCommandTakesThirtyTwoPayloadWords := by
  refine ⟨fun g rest hg => ?_, fun g hg => ?_⟩
  · exact decodeHost_commandWords (i := .drawMasked g) rest (by simp [Instr.wellFormed, hg]) rfl
  · exact (decodeHost_drawMasked g).trans (if_pos hg)

/-- Settles O5, by evaluating the decoder on each word. -/
theorem sampleCodesDecodeAsTheSpecSays : Obligations.SampleCodesDecodeAsTheSpecSays := by
  unfold Obligations.SampleCodesDecodeAsTheSpecSays
  decide

end Sys2Proof

/-! PROOFS. The configuration's clauses, the state after reset, and which agent moves with which operation
(spec/00_scope.md R7, R10, spec/70_reset_and_hazards.md R230). -/

namespace Sys2Proof

open Machine

/-! ## Tables, entry by entry (R7) -/

theorem all_getD_iff {l : List Nat} {n : Nat} (hl : l.length = n) (p : Nat → Bool) :
    l.all p = true ↔ ∀ k, k < n → p (l.getD k 0) = true := by
  subst hl
  rw [List.all_eq_true]
  constructor
  · intro h k hk
    rw [List.getD_eq_getElem _ _ hk]
    exact h _ (List.getElem_mem hk)
  · intro h x hx
    obtain ⟨k, hk, rfl⟩ := List.getElem_of_mem hx
    rw [← List.getD_eq_getElem _ 0 hk]
    exact h k hk

/-- A condition on neighbouring entries, by index. -/
theorem all_neighbours_getD_iff {l : List Nat} {n : Nat} (hl : l.length = n) (p : Nat × Nat → Bool) :
    (l.zip l.tail).all p = true ↔ ∀ k, k + 1 < n → p (l.getD k 0, l.getD (k + 1) 0) = true := by
  subst hl
  induction l with
  | nil => simp
  | cons x l ih =>
    cases l with
    | nil => simp
    | cons y l =>
      simp only [List.tail_cons, List.zip_cons_cons, List.all_cons, Bool.and_eq_true] at ih ⊢
      rw [ih]
      constructor
      · rintro ⟨h0, h⟩ k hk
        cases k with
        | zero => simpa using h0
        | succ k => simpa using h k (by simpa using hk)
      · intro h
        refine ⟨by simpa using h 0 (by simp), fun k hk => ?_⟩
        simpa using h (k + 1) (by simpa using hk)

theorem wf_iff_clauses {c : Config} :
    c.Wf ↔ (1 ≤ c.bitDepth ∧ c.bitDepth ≤ 8) ∧ c.bcmTable.length = c.bitDepth ∧ c.tableInRange = true ∧
      c.tableNonDecreasing = true ∧ c.tableDoubles = true ∧ c.rowSelectMap.length = 16 ∧ c.mapInRange = true ∧
      (1 ≤ c.tmrInitReload ∧ c.tmrInitReload < 2 ^ c.timerW) := by
  refine ⟨wf_clauses, ?_⟩
  rintro ⟨h1, h2, h3, h4, h5, h6, h7, h8⟩
  show c.failing = none
  simp [Config.failing, h1, h2, h3, h4, h5, h6, h7, h8]

theorem step_of_failing {s : State} {c : ConfigClause} (h : s.cfg.failing = some c) : step s = .fault (.config c) := by
  simp only [step, h]

/-- Settles O6: `Config.failing` tests the clauses one after the other, and each test over a table is one over its indices. -/
theorem configurationIsCheckedClauseByClause : Obligations.ConfigurationIsCheckedClauseByClause := by
  refine ⟨fun s c => step_of_failing, fun c => wf_iff_clauses.trans ?_⟩
  have hdouble : ∀ a b : Nat, ((b : Int) - 2 * (a : Int)).natAbs ≤ c.bcmTol ↔ b ≤ 2 * a + c.bcmTol ∧ 2 * a ≤ b + c.bcmTol := by
    omega
  simp only [hdouble]
  refine and_congr_right fun _ => and_congr_right fun hl => ?_
  simp only [Config.tableInRange, Config.tableNonDecreasing, Config.tableDoubles, Config.tablePairs, Config.mapInRange,
    all_getD_iff hl, all_neighbours_getD_iff hl, Bool.and_eq_true, decide_eq_true_eq]
  constructor
  · rintro ⟨h3, h4, h5, h6, h7, h8⟩
    exact ⟨h6, h3, h4, h5, by simpa only [all_getD_iff h6, decide_eq_true_eq] using h7, h8⟩
  · rintro ⟨h6, h3, h4, h5, h7, h8⟩
    exact ⟨h3, h4, h5, h6, by simpa only [all_getD_iff h6, decide_eq_true_eq] using h7, h8⟩

end Sys2Proof

namespace Sys2Proof.Machine

/-! ## Reset -/

theorem readCell_nil (row col : Nat) : readCell [] row col = ⟨0, 0, 0⟩ := rfl

/-- Settles O7: reset writes each of these registers, and an empty framebuffer reads as zero. -/
theorem resetLeavesTheValuesTheSpecGives : Obligations.ResetLeavesTheValuesTheSpecGives :=
  fun _ => ⟨readCell_nil, rfl, rfl, rfl, rfl, rfl, rfl, rfl, rfl, rfl, rfl, rfl⟩

/-- Settles O8: every clause of the invariant that has a premise about the phase or `INIT_DONE` is vacuous after reset. -/
theorem resetMeetsTheInvariant : Obligations.ResetMeetsTheInvariant := by
  intro cfg hwf
  obtain ⟨⟨hdepth, -⟩, -⟩ := wf_clauses hwf
  have hseq : SequencerInv (State.resetWith cfg) := ⟨Nat.zero_le 8, hdepth, fun _ => rfl, fun h => absurd rfl h⟩
  have htimer : TimerInv (State.resetWith cfg) := by simp [TimerInv, State.resetWith]
  have hpins : PinInv (State.resetWith cfg) := by simp [PinInv, State.resetWith]
  exact ⟨hwf, ⟨.nil, nofun⟩, hseq, htimer, hpins, nofun, fun _ => rfl, nofun⟩

/-! ## The operation a step takes (R10) -/

theorem step_of_wf {s : State} (hwf : s.cfg.Wf) : step s = agentStep (nextAgent s) (consumeChoice s) := by
  simp only [step, show s.cfg.failing = none from hwf]

theorem step_of_timer {s : State} (hwf : s.cfg.Wf) (hc : nextAgent s = .timer) : step s = .next (tick (consumeChoice s)) := by
  rw [step_of_wf hwf, hc]
  rfl

/-- The host, moving, with a command in flight. -/
theorem step_of_cell {s : State} {c : InFlight} (hwf : s.cfg.Wf) (ha : nextAgent s = .host) (hc : s.hCmd = some c) :
    step s = hostCell c (consumeChoice s) := by
  simp only [step_of_wf hwf, ha, agentStep, hostStep, consumeChoice_hCmd, hc]

/-- The host, moving, with none in flight: the front of the port. -/
theorem step_of_issue {s : State} (hwf : s.cfg.Wf) (ha : nextAgent s = .host) (hc : s.hCmd = none) :
    step s = hostIssue (consumeChoice s) := by
  simp only [step_of_wf hwf, ha, agentStep, hostStep, consumeChoice_hCmd, hc]

theorem hostIssue_of_command {s : State} {i : Instr} {rest : List Word} (h : decodeHost s.port = .command i rest) :
    hostIssue s = exec i { s with port := rest } := by
  simp only [hostIssue, h]

theorem hostIssue_of_reserved {s : State} {w : Word} (h : decodeHost s.port = .reserved w) :
    hostIssue s = .fault (.rsvd w) := by
  simp only [hostIssue, h]

/-- The host, chosen in the host context, with something to do. -/
theorem nextAgent_host_of {s : State} (hc : chosenAgent s = .host) (hp : s.phase = Phase.idle)
    (h : s.hCmd.isSome = true ∨ decodeHost s.port ≠ .incomplete) : nextAgent s = .host :=
  nextAgent_host hc ((hostEnabled_iff s).mpr ⟨hp, h⟩)

/-- Settles O9, agent by agent. -/
theorem stepRunsTheDecodedOperation : Obligations.StepRunsTheDecodedOperation := by
  refine fun s hwf => ⟨fun i hc he hd => step_of_engine hwf hc he hd, fun i rest hc hp hn hd => ?_, fun w hc hp hn hd => ?_,
    fun c hc hp hs => ?_, fun hc => step_of_timer hwf (nextAgent_timer hc)⟩
  · rw [step_of_issue hwf (nextAgent_host_of hc hp (.inr (by simp [hd]))) hn]
    exact hostIssue_of_command (s := consumeChoice s) hd
  · rw [step_of_issue hwf (nextAgent_host_of hc hp (.inr (by simp [hd]))) hn]
    exact hostIssue_of_reserved (s := consumeChoice s) hd
  · exact step_of_cell hwf (nextAgent_host_of hc hp (.inl (by simp [hs]))) hs

/-! ## Placed words (R91, R97) -/

/-- A table word of the host port, placed, is the command's own words at the front. -/
theorem decodeHost_tableWords {w : Nat} {i : Instr} (h : decodeTableWord 32 w = some i) (rest : List Word) :
    decodeHost (tableWords w ++ rest) = .command i rest := by
  have hd : decodeHost (tableWords w) = .command i [] := decode_words_some.mp h
  obtain ⟨hh, hw⟩ := decodeHost_command hd
  rw [← commandWords_of_decodeHost hd, List.append_nil]
  exact decodeHost_commandWords rest hw hh

theorem decodeTableWord_phase {w : Nat} {i : Instr} (h : decodeTableWord 8 w = some i) :
    w < 16 ∧ decodePhase (BitVec.ofNat 4 w) = some i := by
  simpa [decodeTableWord] using h

/-- Settles O10: placing enables the operation's agent and chooses it, so the step runs it and uses the choice up. -/
theorem placedTableWordIsTheNextOperation : Obligations.PlacedTableWordIsTheNextOperation := by
  refine fun s w i hwf => ⟨fun h => ?_, fun h => ?_⟩
  · have hd : decodeHost (presentCommand w s).port = .command i s.port := decodeHost_tableWords h s.port
    have ha : nextAgent (presentCommand w s) = .host := nextAgent_host_of rfl rfl (.inr (by simp [hd]))
    change step (presentCommand w s) = _
    rw [step_of_issue (s := presentCommand w s) hwf ha rfl, hostIssue_of_command (s := consumeChoice (presentCommand w s)) hd]
    rfl
  · obtain ⟨hw, hd⟩ := decodeTableWord_phase h
    have he : engineEnabled (placePhase w s) = true := by
      rw [engineEnabled_iff]
      by_cases h0 : w = 0
      · exact .inr (by simp [placePhase, h0])
      · refine .inl fun hp => h0 ?_
        have := congrArg BitVec.toNat hp
        simpa [placePhase, Nat.mod_eq_of_lt hw] using this
    exact step_of_engine (s := placePhase w s) hwf rfl he hd

/-! ## Who moves -/

/-- Settles O11: an agent that moves was chosen and enabled; and each one, put at the front of the schedule, is chosen. -/
theorem onlyEnabledAgentsMove : Obligations.OnlyEnabledAgentsMove := by
  have isSome_iff : ∀ o : Option InFlight, o ≠ none ↔ o.isSome = true := fun o => Option.isSome_iff_ne_none.symm
  intro s
  simp only [isSome_iff, ← hostEnabled_iff, ← engineEnabled_iff]
  refine ⟨fun ha => ?_, fun ha => ?_, fun a hh he => ?_⟩
  · rcases nextAgent_enabled s with h | ⟨-, h, -⟩ | ⟨h, -⟩
    · simp [ha] at h
    · exact h
    · simp [ha] at h
  · rcases nextAgent_enabled s with h | ⟨h, -⟩ | ⟨-, h, -⟩
    · simp [ha] at h
    · simp [ha] at h
    · exact h
  · cases a with
    | host => exact nextAgent_host rfl (hh rfl)
    | timer => exact nextAgent_timer rfl
    | engine => exact nextAgent_engine rfl (he rfl)

end Sys2Proof.Machine

/-! PROOFS. The invariant is inductive: each kind of step keeps it (spec/10_state.md R24 to R39). -/

namespace Sys2Proof.Machine

/-! ## The timer -/

/-- A tick touches the timer alone: a running count stays legal, a stopped one as it was. -/
theorem timerInv_of_tick {s : State} (h : TimerInv s) : TimerInv (tick s) := by
  obtain ⟨hoff, hregs, hpend, hstop, hack, hadv⟩ := h
  refine ⟨fun h0 => ?_, fun h1 => ?_, fun hp => ?_, hstop, fun hp => ?_, hadv⟩
  · obtain ⟨hen, hp⟩ := hoff h0
    simp [expires, hen, hp]
  · obtain ⟨h1, h2, h3, h4⟩ := hregs h1
    refine ⟨h1, h2, ?_⟩
    simp only [tick_tCount, tick_cfg, expires, Bool.and_eq_true, decide_eq_true_eq]
    split_ifs with he hen
    · exact ⟨h1, h2⟩
    · have : ¬ s.tCount ≤ 1 := fun hle => he ⟨hen, hle⟩
      omega
    · exact ⟨h3, h4⟩
  · simp [hpend hp]
  · have hen := hstop ⟨Nat.le_of_succ_le hp.1, hp.2⟩
    simp [expires, hen, hack hp]

theorem inv_of_tick {s : State} (h : Inv s) : Inv (tick s) := by
  obtain ⟨hwf, hfb, hseq, htimer, hpins, hhost⟩ := h
  exact ⟨hwf, hfb, hseq, timerInv_of_tick htimer, hpins, hhost⟩

/-! ## The engine, phase by phase -/

theorem advanceCursor_bitPlane_lt {s : State} (hwf : s.cfg.Wf) (h : s.bitPlane.toNat < s.cfg.bitDepth) :
    (advanceCursor s).bitPlane.toNat < s.cfg.bitDepth := by
  obtain ⟨⟨-, hdepth⟩, -⟩ := wf_clauses hwf
  by_cases hl : s.bitPlane.toNat + 1 = s.cfg.bitDepth
  · simp only [advanceCursor_bitPlane, lastPlane_of_eq hl, if_pos]
    exact Nat.zero_lt_of_lt h
  · have hlt : s.bitPlane.toNat + 1 < s.cfg.bitDepth := by omega
    simp only [advanceCursor_bitPlane, lastPlane_of_lt hlt, Bool.false_eq_true, if_false, BitVec.toNat_add]
    exact Nat.lt_of_le_of_lt (Nat.mod_le _ _) hlt

theorem sequencerInv_of_engine {s t : State} {i : Instr} (hwf : s.cfg.Wf) (h : SequencerInv s)
    (hd : decodePhase s.phase = some i) (hx : exec i s = .next t) : SequencerInv t := by
  obtain ⟨-, hplane, hcol, hinit⟩ := h
  rcases engine_cases hd hx with ⟨hp, -, h1, rfl⟩ | ⟨hp, rfl⟩ | ⟨hp, rfl⟩ | ⟨hp, v, -, rfl⟩ | ⟨hp, rfl⟩ | ⟨hp, rfl⟩ |
    ⟨hp, rfl⟩ | ⟨hp, v, -, rfl⟩ | ⟨hp, rfl⟩
  case inr.inr.inr.inr.inl => cases hl : lastColumn s <;> simp_all [SequencerInv]
  case inr.inr.inr.inr.inr.inr.inr.inr =>
    exact ⟨Nat.zero_le 8, advanceCursor_bitPlane_lt hwf hplane, fun _ => hcol (by simp [hp]), fun h => absurd rfl h⟩
  all_goals simp_all [SequencerInv]

theorem timerInv_of_engine {s t : State} {i : Instr} (hwf : s.cfg.Wf) (hinit : s.phase ≠ Phase.idle → s.initDone = true)
    (h : TimerInv s) (hd : decodePhase s.phase = some i) (hx : exec i s = .next t) : TimerInv t := by
  obtain ⟨-, hregs, hpend, hstop, hack, hadv⟩ := h
  rcases engine_cases hd hx with ⟨hp, h2, h1, rfl⟩ | ⟨hp, rfl⟩ | ⟨hp, rfl⟩ | ⟨hp, v, -, rfl⟩ | ⟨hp, rfl⟩ | ⟨hp, rfl⟩ |
    ⟨hp, rfl⟩ | ⟨hp, v, hv, rfl⟩ | ⟨hp, rfl⟩
  case inr.inr.inr.inr.inl => cases hl : lastColumn s <;> simp_all [TimerInv]
  case inr.inr.inr.inr.inr.inr.inr.inl =>
    obtain ⟨h1, h2⟩ := bcm_range hwf hv
    simp_all [TimerInv]
  all_goals simp_all [TimerInv]

theorem pinInv_of_engine {s t : State} {i : Instr} (hwf : s.cfg.Wf) (hinit : s.phase ≠ Phase.idle → s.initDone = true)
    (h : PinInv s) (hd : decodePhase s.phase = some i) (hx : exec i s = .next t) : PinInv t := by
  obtain ⟨hlines, hdark, hlit, hsel, hsr, hlatch⟩ := h
  rcases engine_cases hd hx with ⟨hp, h2, h1, rfl⟩ | ⟨hp, rfl⟩ | ⟨hp, rfl⟩ | ⟨hp, v, hv, rfl⟩ | ⟨hp, rfl⟩ | ⟨hp, rfl⟩ |
    ⟨hp, rfl⟩ | ⟨hp, v, -, rfl⟩ | ⟨hp, rfl⟩
  case inr.inr.inr.inl =>
    obtain ⟨w, hw, hlt⟩ := rowSelect_some hwf s.rowPair
    rw [hv] at hw
    cases hw
    simp_all [PinInv]
  case inr.inr.inr.inr.inl => cases hl : lastColumn s <;> simp_all [PinInv]
  all_goals simp_all [PinInv]

/-- The engine leaves the host's registers, the framebuffer and the configuration alone. -/
theorem engine_frame {s t : State} {i : Instr} (hd : decodePhase s.phase = some i) (hx : exec i s = .next t) :
    t.cfg = s.cfg ∧ t.fb = s.fb ∧ t.drawColor = s.drawColor ∧ t.dcValid = s.dcValid ∧ t.initDone = s.initDone ∧
      t.hCmd = s.hCmd ∧ t.hIdx = s.hIdx ∧ t.hChan = s.hChan ∧ t.port = s.port := by
  rcases engine_cases hd hx with ⟨-, -, -, rfl⟩ | ⟨-, rfl⟩ | ⟨-, rfl⟩ | ⟨-, v, -, rfl⟩ | ⟨-, rfl⟩ | ⟨-, rfl⟩ |
    ⟨-, rfl⟩ | ⟨-, v, -, rfl⟩ | ⟨-, rfl⟩ <;> simp

theorem inv_of_engine {s t : State} {i : Instr} (h : Inv s) (hd : decodePhase s.phase = some i) (hx : exec i s = .next t) :
    Inv t := by
  obtain ⟨hwf, hfb, hseq, htimer, hpins, hcmd, hchan, hvalid⟩ := h
  have hinit := hseq.2.2.2
  obtain ⟨ecfg, efb, -, edc, einit, ecmd, eidx, echan, -⟩ := engine_frame hd hx
  refine ⟨ecfg ▸ hwf, efb ▸ hfb, sequencerInv_of_engine hwf hseq hd hx, timerInv_of_engine hwf hinit htimer hd hx,
    pinInv_of_engine hwf hinit hpins hd hx, fun c hc => ?_, ?_, ?_⟩
  · rw [CommandInv, einit, eidx]
    exact hcmd c (ecmd ▸ hc)
  · rw [ecmd, ecfg, echan]
    exact hchan
  · rw [edc, einit]
    exact hvalid

/-! ## The host -/

/-- A cell step writes the framebuffer and the host's progress, and nothing else. -/
theorem cellStep_frame (c : InFlight) (r col : Nat) (s : State) :
    cellStep c r col s = { s with
      fb := (cellStep c r col s).fb, hCmd := (cellStep c r col s).hCmd, hIdx := (cellStep c r col s).hIdx
      hChan := (cellStep c r col s).hChan } := by
  rcases cellStep_cases c r col s with ⟨-, e⟩ | ⟨-, -, e⟩ | ⟨-, -, e⟩ | ⟨-, -, e⟩ <;> rw [e] <;> rfl

/-- A cell step of a command in flight leaves it in flight inside its list, or done at the end of it. -/
theorem cellStep_progress {c : InFlight} {s : State} (r col : Nat) (hc : s.hCmd = some c)
    (hi : s.hIdx < (cellCoords c.cmd).length) :
    ((cellStep c r col s).hCmd = none ∧ (cellStep c r col s).hIdx = (cellCoords c.cmd).length ∧
        (cellStep c r col s).hChan = .red) ∨
      ((cellStep c r col s).hCmd = some c ∧ (cellStep c r col s).hIdx < (cellCoords c.cmd).length ∧
        (s.cfg.channelTear = false → (cellStep c r col s).hChan = .red)) := by
  rcases cellStep_cases c r col s with ⟨ht, e⟩ | ⟨ht, -, e⟩ | ⟨ht, -, e⟩ | ⟨ht, -, e⟩ <;> rw [e]
  case inr.inl | inr.inr.inl => simp [hc, hi, ht]
  all_goals
    simp only [finishCell_hCmd, finishCell_hIdx, finishCell_hChan]
    split <;> simp <;> omega

theorem inv_of_hostCell {s t : State} {c : InFlight} (h : Inv s) (hc : s.hCmd = some c) (hx : hostCell c s = .next t) :
    Inv t := by
  obtain ⟨r, col, -, hr, hcol, rfl⟩ := hostCell_next.mp hx
  obtain ⟨hwf, hfb, hseq, htimer, hpins, hcmd, hchan, hvalid⟩ := h
  obtain ⟨hinit, hwfc, hidx, hgrid⟩ := hcmd c hc
  have hfb' := cellStep_fb_wf c r col s hfb hr hcol
  have hprog := cellStep_progress r col hc hidx
  rw [cellStep_frame]
  refine ⟨hwf, hfb', hseq, htimer, hpins, fun c' hc' => ?_, fun h => ?_, hvalid⟩
  · rcases hprog with ⟨hn, -⟩ | ⟨hs, hlt, -⟩
    · simp [hn] at hc'
    · obtain rfl : c = c' := by simpa [hs] using hc'
      exact ⟨hinit, hwfc, hlt, hgrid⟩
  · rcases hprog with ⟨-, -, hred⟩ | ⟨hs, -, hred⟩
    · exact hred
    · exact hred (h.resolve_left (by simp [hs]))

/-- The issue of a command: set-up fills in what the invariant asks once `INIT_DONE` is 1, and a command that starts has
its cells in the grid. -/
theorem inv_of_issue {s t : State} {i : Instr} (h : Inv s) (hh : i.isHost = true) (hw : i.wellFormed = true)
    (hx : exec i s = .next t) : Inv t := by
  obtain ⟨hwf, hfb, hseq, htimer, hpins, hcmd, hchan, hvalid⟩ := h
  obtain ⟨⟨hp, hfree⟩, hcases⟩ := exec_host_next hh hx
  rcases hcases with ⟨-, h0, rfl⟩ | ⟨h1, ⟨-, rfl⟩ | ⟨r, g, b, -, rfl⟩ | ⟨-, rfl⟩ | ⟨hne, hgrid, c, rfl, -⟩⟩
  · obtain ⟨⟨hdepth, -⟩, -, -, -, -, -, -, hload⟩ := wf_clauses hwf
    obtain ⟨-, -, -, -, hsr, hlatch⟩ := hpins
    refine ⟨hwf, hfb, ⟨Nat.zero_le 8, hdepth, fun _ => rfl, fun h => absurd rfl h⟩, ?_, ?_, ?_⟩
    · simpa [TimerInv] using ⟨hload.1, hload.2, hload⟩
    · simpa [PinInv] using ⟨hsr, hlatch⟩
    · simpa [HostInv, hfree] using hchan (.inl hfree)
  · obtain ⟨-, hregs, -⟩ := htimer
    refine ⟨hwf, hfb, hseq, ?_, hpins, hcmd, hchan, hvalid⟩
    simpa [TimerInv, hp, h1] using hregs h1
  · exact ⟨hwf, hfb, hseq, htimer, hpins, hcmd, hchan, fun _ => h1⟩
  · exact ⟨hwf, hfb, hseq, htimer, hpins, hcmd, hchan, hvalid⟩
  · refine ⟨hwf, hfb, hseq, htimer, hpins, fun c' hc' => ?_, fun _ => rfl, hvalid⟩
    obtain rfl : ⟨i, c⟩ = c' := by simpa using hc'
    exact ⟨h1, hw, List.length_pos_iff.mpr hne, hgrid⟩

/-! ## Every step -/

/-- Settles O12: each kind of step keeps each part of the invariant. -/
theorem everyStepKeepsTheInvariant : Obligations.EveryStepKeepsTheInvariant := by
  intro s s' h hstep
  have hu : Inv (consumeChoice s) := h
  obtain ⟨-, ⟨-, rfl⟩ | ⟨-, -, i, hd, hx⟩ | ⟨-, -, c, hc, hx⟩ | ⟨-, -, -, i, rest, hd, hx⟩⟩ := step_cases hstep
  · exact inv_of_tick hu
  · exact inv_of_engine hu hd hx
  · exact inv_of_hostCell hu hc hx
  · obtain ⟨hh, hw⟩ := decodeHost_command hd
    exact inv_of_issue (s := { consumeChoice s with port := rest }) hu hh hw hx

/-- The invariant along a run. -/
theorem RunUpTo.inv {σ : Nat → State} {n : Nat} (h : RunUpTo σ n) (h0 : Inv (σ 0)) : ∀ m, m ≤ n → Inv (σ m) :=
  h.induct h0 fun _ _ hm hs => everyStepKeepsTheInvariant _ _ hm hs

/-- What a host step does to the picture: a cell write of the command in flight, or nothing. -/
theorem host_step_picture {s t : State} (h : step s = .next t) (ha : nextAgent s = .host) :
    t.trace = s.trace ∧ (t.fb = s.fb ∨ ∃ c, s.hCmd = some c ∧ hostCell c (consumeChoice s) = .next t) := by
  obtain ⟨-, ⟨hb, -⟩ | ⟨hb, -⟩ | ⟨-, -, c, hc, hx⟩ | ⟨-, -, -, i, rest, hd, hx⟩⟩ := step_cases h
  · simp [ha] at hb
  · simp [ha] at hb
  · refine ⟨?_, .inr ⟨c, hc, hx⟩⟩
    obtain ⟨r, col, -, -, -, rfl⟩ := hostCell_next.mp hx
    rw [cellStep_frame]
    rfl
  · rcases exec_host_next (decodeHost_command hd).1 hx with
      ⟨-, ⟨-, -, rfl⟩ | ⟨-, ⟨-, rfl⟩ | ⟨r, g, b, -, rfl⟩ | ⟨-, rfl⟩ | ⟨-, -, c, rfl, -⟩⟩⟩ <;> exact ⟨rfl, .inl rfl⟩

/-- Settles O13: with `INIT_DONE` 0 the invariant leaves the engine nothing enabled and the host no command in flight. -/
theorem nothingScansBeforeInitDisplay : Obligations.NothingScansBeforeInitDisplay := by
  intro s s' hinv h0 hstep
  obtain ⟨-, -, ⟨-, -, -, hinit⟩, -, -, hcmd, -⟩ := hinv
  have hp : s.phase = Phase.idle := by
    by_contra hp
    simp [hinit hp] at h0
  have hfree : ∀ c, s.hCmd ≠ some c := fun c hc => by simp [(hcmd c hc).1] at h0
  obtain ⟨-, ⟨ha, rfl⟩ | ⟨-, he, -⟩ | ⟨ha, -⟩ | ⟨ha, -⟩⟩ := step_cases hstep
  · exact ⟨by simp [ha], hp, rfl, by simp [pinEvents]⟩
  · simp [engineEnabled_iff, hp, h0] at he
  all_goals
    obtain ⟨htrace, hfb | ⟨c, hc, -⟩⟩ := host_step_picture hstep ha
    · exact ⟨by simp [ha], (host_step_control hstep ha).2.1, hfb, by rw [htrace]⟩
    · exact absurd hc (hfree c)

end Sys2Proof.Machine

/-! PROOFS. The issue of each host command: when it starts, what it writes, and with which fault it stops
(spec/40_drawing_surface.md R120 to R127, spec/42_system_ops.md, spec/60_exceptions.md R191). -/

namespace Sys2Proof.Machine

/-! ## The checks, one at a time (R191) -/

theorem whenFree_busy {i : Instr} {s : State} {k : Out} (h : s.phase ≠ Phase.idle ∨ s.hCmd ≠ none) :
    whenFree i s k = .fault (.busy i) := if_neg (by tauto)

theorem afterInit_busy {i : Instr} {s : State} {k : Out} (h : s.phase ≠ Phase.idle ∨ s.hCmd ≠ none) :
    afterInit i s k = .fault (.busy i) := whenFree_busy h

theorem afterInit_noInit {i : Instr} {s : State} {k : Out} (hp : s.phase = Phase.idle) (hc : s.hCmd = none)
    (hi : s.initDone = false) : afterInit i s k = .fault (.noInit i) := by
  rw [afterInit, whenFree_pos hp hc, if_neg (by simp [hi])]

theorem runInBounds_pos {f a n r c : Nat} {k : Out} (hf : f < 32) (hn : a + n ≤ 32) : runInBounds f a n r c k = k := by
  rw [runInBounds, if_neg (by omega), if_neg (by omega)]

theorem runInBounds_coord {f a n r c : Nat} {k : Out} (hf : 32 ≤ f) : runInBounds f a n r c k = .fault (.coord r c) :=
  if_pos hf

theorem runInBounds_run {f a n r c : Nat} {k : Out} (hf : f < 32) (hn : 32 < a + n) :
    runInBounds f a n r c k = .fault (.run a n) := by
  rw [runInBounds, if_neg (by omega), if_pos hn]

theorem startColored_empty {i : Instr} {s : State} (h : cellCoords i = []) : startColored i s = .next s := if_pos h

theorem startColored_valid {i : Instr} {s : State} (h : cellCoords i ≠ []) (hd : s.dcValid = true) :
    startColored i s = .next (startCommand i s.drawColor s) := by
  rw [startColored, if_neg h, if_pos hd]

theorem startColored_unset {i : Instr} {s : State} (h : cellCoords i ≠ []) (hd : s.dcValid = false) :
    startColored i s = .fault (.unsetColor i) := by
  rw [startColored, if_neg h, if_neg (by simp [hd])]

/-! ## Each command in the host context after set-up -/

section InTurn

variable {s : State} (hp : s.phase = Phase.idle) (hc : s.hCmd = none) (hi : s.initDone = true)
include hp hc hi

theorem exec_setColor (r g b : Byte) :
    exec (.setColor r g b) s = .next { s with drawColor := ⟨r, g, b⟩, dcValid := true } := afterInit_pos hp hc hi

theorem exec_schedEnable : exec .schedEnable s = .next { s with tEn := true } := afterInit_pos hp hc hi

theorem exec_clear : exec .clear s = .next (startCommand .clear zeroColor s) := afterInit_pos hp hc hi

theorem exec_fillSolid : exec .fillSolid s = startColored .fillSolid s := afterInit_pos hp hc hi

theorem exec_drawPixel {row col : Byte} (hr : row.toNat < 32) (hcol : col.toNat < 32) :
    exec (.drawPixel row col) s = startColored (.drawPixel row col) s :=
  (afterInit_pos hp hc hi).trans (if_neg (by omega))

theorem exec_drawRowRun {row c n : Byte} (hr : row.toNat < 32) (hn : c.toNat + n.toNat ≤ 32) :
    exec (.drawRowRun row c n) s = startColored (.drawRowRun row c n) s :=
  (afterInit_pos hp hc hi).trans (runInBounds_pos hr hn)

theorem exec_drawColRun {col r n : Byte} (hcol : col.toNat < 32) (hn : r.toNat + n.toNat ≤ 32) :
    exec (.drawColRun col r n) s = startColored (.drawColRun col r n) s :=
  (afterInit_pos hp hc hi).trans (runInBounds_pos hcol hn)

theorem exec_drawMasked (g : List Word) : exec (.drawMasked g) s = startColored (.drawMasked g) s :=
  afterInit_pos hp hc hi

/-- A run with cells, all of them in the grid, is in bounds: its first and last cell say so. -/
theorem exec_of_cells_inGrid {i : Instr} (hh : i.isHost = true) (hclear : i ≠ .clear) (hne : cellCoords i ≠ [])
    (hgrid : ∀ p ∈ cellCoords i, p.1 < 32 ∧ p.2 < 32) : exec i s = startColored i s := by
  cases i with
  | clear => exact absurd rfl hclear
  | fillSolid => exact exec_fillSolid hp hc hi
  | drawPixel row col =>
    obtain ⟨hr, hcol⟩ := hgrid (row.toNat, col.toNat) (by simp [cellCoords])
    exact exec_drawPixel hp hc hi hr hcol
  | drawRowRun row c n =>
    have hpos : n.toNat ≠ 0 := fun h0 => hne (by simp [cellCoords, h0])
    obtain ⟨hr, hlast⟩ := hgrid (row.toNat, c.toNat + (n.toNat - 1)) (mem_drawRowRun.mpr ⟨rfl, by omega, by omega⟩)
    exact exec_drawRowRun hp hc hi hr (by omega)
  | drawColRun col r n =>
    have hpos : n.toNat ≠ 0 := fun h0 => hne (by simp [cellCoords, h0])
    obtain ⟨hlast, hcol⟩ := hgrid (r.toNat + (n.toNat - 1), col.toNat) (mem_drawColRun.mpr ⟨rfl, by omega, by omega⟩)
    exact exec_drawColRun hp hc hi hcol (by omega)
  | drawMasked g => exact exec_drawMasked hp hc hi g
  | setColor | initDisplay | schedEnable => exact absurd rfl hne
  | entry | tstop | tack | rowsel | shift | latch | unblank | treload | advance => cases hh

end InTurn

/-! ## Set-up commands -/

theorem exec_initDisplay {s : State} (hp : s.phase = Phase.idle) (hc : s.hCmd = none) (hi : s.initDone = false) :
    exec .initDisplay s = .next { setUpSequencer (setUpTimer (setUpLines s)) with initDone := true } :=
  (whenFree_pos hp hc).trans (if_neg (by simp [hi]))

theorem exec_initDisplay_again {s : State} (hp : s.phase = Phase.idle) (hc : s.hCmd = none) (hi : s.initDone = true) :
    exec .initDisplay s = .fault .reInit := (whenFree_pos hp hc).trans (if_pos hi)

/-- Settles O14: the three parts of set-up write one register each, none twice. -/
theorem setUpCommandsWriteTheirRegisters : Obligations.SetUpCommandsWriteTheirRegisters :=
  fun _ hp hc => ⟨fun hi => exec_initDisplay hp hc hi, fun hi => exec_schedEnable hp hc hi⟩

/-- Every host command but `INITDISPLAY` asks for the host context, then for set-up. -/
theorem exec_eq_afterInit {i : Instr} (hh : i.isHost = true) (hne : i ≠ .initDisplay) (s : State) :
    ∃ k, exec i s = afterInit i s k := by
  cases i with
  | initDisplay => exact absurd rfl hne
  | setColor | clear | fillSolid | drawPixel | drawRowRun | drawColRun | drawMasked | schedEnable => exact ⟨_, rfl⟩
  | entry | tstop | tack | rowsel | shift | latch | unblank | treload | advance => cases hh

/-- Settles O15: `INITDISPLAY` asks for the host context first too, and then for the opposite of the others. -/
theorem commandsOutOfTurnFault : Obligations.CommandsOutOfTurnFault := by
  refine fun i s hh => ⟨fun hbusy => ?_, fun hp hc h0 hne => ?_, fun hp hc h1 he => ?_⟩
  · by_cases hne : i = .initDisplay
    · subst hne
      exact whenFree_busy hbusy
    · obtain ⟨k, hk⟩ := exec_eq_afterInit hh hne s
      rw [hk, afterInit_busy hbusy]
  · obtain ⟨k, hk⟩ := exec_eq_afterInit hh hne s
    rw [hk, afterInit_noInit hp hc h0]
  · rw [he, exec_initDisplay_again hp hc h1]

/-! ## Drawing commands -/

/-- Settles O16. -/
theorem setColorReplacesTheDrawColor : Obligations.SetColorReplacesTheDrawColor :=
  fun r g b _ hp hc hi => exec_setColor hp hc hi r g b

/-- Settles O17: no check after set-up stands in front of its start. -/
theorem clearStartsWithoutADrawColor : Obligations.ClearStartsWithoutADrawColor := fun _ hp hc hi => exec_clear hp hc hi

/-- Settles O18: both have a cell to write, so both start with the draw colour. -/
theorem fillAndPixelStartWithTheDrawColor : Obligations.FillAndPixelStartWithTheDrawColor := by
  refine fun s hp hc hi hd => ⟨?_, fun row col hr hcol => ?_⟩
  · exact (exec_fillSolid hp hc hi).trans (startColored_valid allCells_ne_nil hd)
  · exact (exec_drawPixel hp hc hi hr hcol).trans (startColored_valid (List.cons_ne_nil _ _) hd)

theorem cellCoords_drawRowRun_eq_nil {row c n : Byte} : cellCoords (.drawRowRun row c n) = [] ↔ n = 0 := by
  rw [cellCoords, List.map_eq_nil_iff, List.range_eq_nil]
  exact ⟨fun h => BitVec.eq_of_toNat_eq h, fun h => by simp [h]⟩

theorem cellCoords_drawColRun_eq_nil {col r n : Byte} : cellCoords (.drawColRun col r n) = [] ↔ n = 0 := by
  rw [cellCoords, List.map_eq_nil_iff, List.range_eq_nil]
  exact ⟨fun h => BitVec.eq_of_toNat_eq h, fun h => by simp [h]⟩

/-- Settles O19: a run's list is empty exactly when its length is 0. -/
theorem runsInsideTheGridStart : Obligations.RunsInsideTheGridStart := by
  refine fun s fix start len hp hc hi hf hn => ⟨fun h0 => ?_, fun h0 hd => ?_⟩ <;>
    rw [exec_drawRowRun hp hc hi hf hn, exec_drawColRun hp hc hi hf hn]
  · exact ⟨startColored_empty (cellCoords_drawRowRun_eq_nil.mpr h0), startColored_empty (cellCoords_drawColRun_eq_nil.mpr h0)⟩
  · exact ⟨startColored_valid (mt cellCoords_drawRowRun_eq_nil.mp h0) hd,
      startColored_valid (mt cellCoords_drawColRun_eq_nil.mp h0) hd⟩

/-- A stencil has no cell exactly when it has no 1 bit. -/
theorem cellCoords_drawMasked_eq_nil {g : List Word} (hg : g.length = 32) :
    cellCoords (.drawMasked g) = [] ↔ ∀ w ∈ g, w = 0 := by
  rw [List.eq_nil_iff_forall_not_mem]
  constructor
  · intro h w hw
    obtain ⟨row, hrow, rfl⟩ := List.getElem_of_mem hw
    refine BitVec.eq_of_getLsbD_eq fun col hcol => ?_
    have hbit : maskBit g row col = false := by
      simpa [mem_drawMasked, hg ▸ hrow, hcol] using h (row, col)
    simpa [maskBit, hrow] using hbit
  · rintro h ⟨row, col⟩ hmem
    obtain ⟨⟨hrow, -⟩, hbit⟩ := mem_drawMasked.mp hmem
    have hzero : g.getD row 0 = 0 := by
      rw [List.getD_eq_getElem _ _ (hg ▸ hrow)]
      exact h _ (List.getElem_mem _)
    have hoff : maskBit g row col = false := by
      rw [maskBit, hzero]
      exact BitVec.getLsbD_zero
    exact Bool.false_ne_true (hoff.symm.trans hbit)

/-- Settles O20: a stencil's list is empty exactly when every word is 0. -/
theorem maskedFillStartsWhenAnyBitIsSet : Obligations.MaskedFillStartsWhenAnyBitIsSet := by
  refine fun s g hp hc hi hg => ⟨fun h0 => ?_, fun hne hd => ?_⟩ <;> rw [exec_drawMasked hp hc hi]
  · exact startColored_empty ((cellCoords_drawMasked_eq_nil hg).mpr h0)
  · obtain ⟨w, hw, hne⟩ := hne
    exact startColored_valid (fun h => hne ((cellCoords_drawMasked_eq_nil hg).mp h w hw)) hd

/-- Settles O21: each bound has its fault. -/
theorem operandsOutsideTheGridFault : Obligations.OperandsOutsideTheGridFault := by
  refine fun s x y n hp hc hi => ⟨fun h => ?_, fun hx => ⟨?_, ?_⟩, fun hx hn => ⟨?_, ?_⟩⟩ <;>
    refine (afterInit_pos hp hc hi).trans ?_
  · exact if_pos h
  · exact runInBounds_coord hx
  · exact runInBounds_coord hx
  · exact runInBounds_run hx hn
  · exact runInBounds_run hx hn

/-- Settles O22: in bounds and with a cell to write, the draw colour is the one check left. -/
theorem drawingWithoutAColorFaults : Obligations.DrawingWithoutAColorFaults := by
  intro s i hp hc hi hd hh hclear hne hgrid
  rw [exec_of_cells_inGrid hp hc hi hh hclear hne hgrid, startColored_unset hne hd]

/-- Settles O23: an issue sets the draw colour, does nothing, or starts the command. -/
theorem issuingADrawingCommandChangesOnlyHostState : Obligations.IssuingADrawingCommandChangesOnlyHostState := by
  intro i s t hh h1 h2 hx
  obtain ⟨-, -, ⟨r, g, b, rfl, rfl⟩ | ⟨-, rfl⟩ | ⟨-, -, c, rfl, -⟩⟩ := exec_drawing_next hh h1 h2 hx
  · exact ⟨rfl, fun _ => rfl, fun hne => absurd rfl (hne r g b)⟩
  · exact ⟨rfl, fun _ => rfl, fun _ => ⟨rfl, rfl⟩⟩
  · exact ⟨rfl, fun _ => rfl, fun _ => ⟨rfl, rfl⟩⟩

end Sys2Proof.Machine

/-! PROOFS. The `HostCell` step: one cell, or one channel of it, and where a command stands while it is in flight
(spec/40_drawing_surface.md R120, spec/20_memory.md R65). -/

namespace Sys2Proof.Machine

/-! ## One step -/

theorem hostCell_of_cell {c : InFlight} {s : State} {r col : Nat} (h : (cellCoords c.cmd)[s.hIdx]? = some (r, col))
    (hr : r < 32) (hc : col < 32) : hostCell c s = .next (cellStep c r col s) :=
  hostCell_next.mpr ⟨r, col, h, hr, hc, rfl⟩

theorem cellStep_whole {c : InFlight} {s : State} (h : s.cfg.channelTear = false) (r col : Nat) :
    cellStep c r col s = finishCell c { s with fb := writeCell s.fb r col c.color } := if_neg (by simp [h])

theorem cellStep_red {c : InFlight} {s : State} (h : s.cfg.channelTear = true) (hch : s.hChan = .red) (r col : Nat) :
    cellStep c r col s = { s with fb := writeChannel s.fb r col .red c.color.r, hChan := .green } := by
  simp only [cellStep, h, hch, if_true]

theorem cellStep_green {c : InFlight} {s : State} (h : s.cfg.channelTear = true) (hch : s.hChan = .green) (r col : Nat) :
    cellStep c r col s = { s with fb := writeChannel s.fb r col .green c.color.g, hChan := .blue } := by
  simp only [cellStep, h, hch, if_true]

theorem cellStep_blue {c : InFlight} {s : State} (h : s.cfg.channelTear = true) (hch : s.hChan = .blue) (r col : Nat) :
    cellStep c r col s = finishCell c { s with fb := writeChannel s.fb r col .blue c.color.b } := by
  simp only [cellStep, h, hch, if_true]

/-- The counted index is inside the list. -/
theorem lt_of_cell {c : InFlight} {k : Nat} {p : Nat × Nat} (h : (cellCoords c.cmd)[k]? = some p) :
    k < (cellCoords c.cmd).length := (List.getElem?_eq_some_iff.mp h).1

/-- Settles O24: the step is one whole cell write, counted. -/
theorem hostCellWritesTheNextCell : Obligations.HostCellWritesTheNextCell := by
  intro s c row col hfb htear hcell hr hc
  have hlt := lt_of_cell hcell
  refine ⟨_, hostCell_of_cell hcell hr hc, ?_⟩
  rw [cellStep_whole htear]
  refine ⟨?_, rfl, ?_⟩
  · simp [readCell_writeCell _ hfb _ _ _ _ _ hr hc hc]
  · by_cases hend : s.hIdx + 1 = (cellCoords c.cmd).length
    · simp [hend]
    · simp [hend, show s.hIdx + 1 < (cellCoords c.cmd).length by omega]

/-- A byte that is no channel of the cell. -/
theorem read_writeChannel_of_ne {m : Memory} (h : m.wf) {r col a : Nat} {ch : Channel} (v : Byte)
    (ha : a ≠ channelAddr r col ch) : (writeChannel m r col ch v).read a = m.read a := by
  rw [writeChannel, read_write m h.1, if_neg ha]

theorem read_writeCell_of_ne {m : Memory} (h : m.wf) {r col a : Nat} (v : Color) (hr : r < 32) (hc : col < 32)
    (ha : ∀ ch, a ≠ channelAddr r col ch) : (writeCell m r col v).read a = m.read a := by
  have h1 := writeChannel_wf m h r col .red v.r hr hc
  have h2 := writeChannel_wf _ h1 r col .green v.g hr hc
  rw [writeCell, read_writeChannel_of_ne h2 _ (ha _), read_writeChannel_of_ne h1 _ (ha _), read_writeChannel_of_ne h _ (ha _)]

/-- Settles O25: in either mode the step writes channels of its own cell only. -/
theorem hostCellChangesNoOtherCell : Obligations.HostCellChangesNoOtherCell := by
  intro s t c hfb hx
  obtain ⟨r, col, hcell, hr, hc, rfl⟩ := hostCell_next.mp hx
  refine ⟨cellStep_frame c r col s, fun row col' hcell' a ha => ?_⟩
  obtain ⟨rfl, rfl⟩ : r = row ∧ col = col' := by simpa [hcell] using hcell'
  rcases cellStep_cases c r col s with ⟨-, e⟩ | ⟨-, -, e⟩ | ⟨-, -, e⟩ | ⟨-, -, e⟩ <;> rw [e]
  · exact read_writeCell_of_ne hfb _ hr hc ha
  all_goals exact read_writeChannel_of_ne hfb _ (ha _)

/-- Settles O26: each of the three steps finds its cell at the same index, and a whole write is the three channel writes. -/
theorem threeTornWritesMakeOneCell : Obligations.ThreeTornWritesMakeOneCell := by
  intro s c row col htear hch hcmd hcell hr hc
  refine ⟨_, _, hostCell_of_cell hcell hr hc, hostCell_of_cell ?_ hr hc, cellStep_red htear hch row col,
    cellStep_green ?_ ?_ row col, ?_⟩
  · rw [cellStep_red htear hch]
    exact hcell
  · rw [cellStep_red htear hch]
    exact htear
  · rw [cellStep_red htear hch]
  · rw [cellStep_red htear hch, cellStep_green (s := { s with fb := _, hChan := .green }) htear rfl,
      hostCell_of_cell (s := { s with fb := _, hChan := .blue }) hcell hr hc,
      cellStep_blue (s := { s with fb := _, hChan := .blue }) htear rfl]
    rfl

end Sys2Proof.Machine

/-! PROOFS. A whole command: the framebuffer it has made at each point of its progress, alone on the block and under any
interleaving (spec/40_drawing_surface.md R120, R131, spec/60_exceptions.md R197). -/

namespace Sys2Proof.Machine

/-! ## The framebuffer a command makes -/

/-- The framebuffer after cell writes, in list order. -/
def drawn (color : Color) (cells : List (Nat × Nat)) (m : Memory) : Memory :=
  cells.foldl (fun m p => writeCell m p.1 p.2 color) m

/-- The framebuffer after the channels of cell `p` before `ch`. -/
def tornAt (color : Color) (p : Nat × Nat) (m : Memory) : Channel → Memory
  | .red => m
  | .green => writeChannel m p.1 p.2 .red color.r
  | .blue => writeChannel (writeChannel m p.1 p.2 .red color.r) p.1 p.2 .green color.g

/-- The framebuffer after `k` cells of a command and the channels before `ch` of the next. -/
def progressFb (c : InFlight) (m : Memory) (k : Nat) (ch : Channel) : Memory :=
  tornAt c.color ((cellCoords c.cmd).getD k (0, 0)) (drawn c.color ((cellCoords c.cmd).take k) m) ch

theorem drawn_append_one (color : Color) (cells : List (Nat × Nat)) (p : Nat × Nat) (m : Memory) :
    drawn color (cells ++ [p]) m = writeCell (drawn color cells m) p.1 p.2 color := by
  simp [drawn]

theorem drawn_wf {color : Color} {cells : List (Nat × Nat)} {m : Memory} (h : m.wf)
    (hgrid : ∀ p ∈ cells, p.1 < 32 ∧ p.2 < 32) : (drawn color cells m).wf := by
  induction cells generalizing m with
  | nil => exact h
  | cons p cells ih =>
    obtain ⟨hr, hc⟩ := hgrid p (by simp)
    exact ih (writeCell_wf m h p.1 p.2 color hr hc) fun q hq => hgrid q (List.mem_cons_of_mem _ hq)

/-- Listed cells hold the colour, the others what they held. -/
theorem readCell_drawn {color : Color} {cells : List (Nat × Nat)} {m : Memory} {row col : Nat} (h : m.wf)
    (hgrid : ∀ p ∈ cells, p.1 < 32 ∧ p.2 < 32) (hcol : col < 32) :
    readCell (drawn color cells m) row col = if (row, col) ∈ cells then color else readCell m row col := by
  induction cells generalizing m with
  | nil => simp [drawn]
  | cons p cells ih =>
    obtain ⟨hr, hc⟩ := hgrid p (by simp)
    have hrest := ih (writeCell_wf m h p.1 p.2 color hr hc) fun q hq => hgrid q (List.mem_cons_of_mem _ hq)
    change readCell (drawn color cells (writeCell m p.1 p.2 color)) row col = _
    rw [hrest, readCell_writeCell m h _ _ _ _ _ hr hc hcol]
    have hp : (row, col) = p ↔ row = p.1 ∧ col = p.2 := Prod.ext_iff
    by_cases h1 : (row, col) ∈ cells <;> by_cases h2 : row = p.1 ∧ col = p.2 <;> simp [h1, h2, hp]

@[simp] theorem progressFb_zero (c : InFlight) (m : Memory) : progressFb c m 0 .red = m := rfl

theorem progressFb_red (c : InFlight) (m : Memory) (k : Nat) :
    progressFb c m k .red = drawn c.color ((cellCoords c.cmd).take k) m := rfl

theorem progressFb_end (c : InFlight) (m : Memory) :
    progressFb c m (cellCoords c.cmd).length .red = drawn c.color (cellCoords c.cmd) m := by
  rw [progressFb_red, List.take_length]

/-- One more cell, whole. -/
theorem progressFb_succ {c : InFlight} {k r col : Nat} (h : (cellCoords c.cmd)[k]? = some (r, col)) (m : Memory) :
    progressFb c m (k + 1) .red = writeCell (progressFb c m k .red) r col c.color := by
  rw [progressFb_red, progressFb_red, List.take_add_one, h]
  exact drawn_append_one _ _ _ _

theorem progressFb_green {c : InFlight} {k r col : Nat} (h : (cellCoords c.cmd)[k]? = some (r, col)) (m : Memory) :
    progressFb c m k .green = writeChannel (progressFb c m k .red) r col .red c.color.r := by
  simp [progressFb, tornAt, h]

theorem progressFb_blue {c : InFlight} {k r col : Nat} (h : (cellCoords c.cmd)[k]? = some (r, col)) (m : Memory) :
    progressFb c m k .blue = writeChannel (progressFb c m k .green) r col .green c.color.g := by
  simp [progressFb, tornAt, h]

/-- The third channel makes it a whole cell. -/
theorem progressFb_succ_of_blue {c : InFlight} {k r col : Nat} (h : (cellCoords c.cmd)[k]? = some (r, col)) (m : Memory) :
    progressFb c m (k + 1) .red = writeChannel (progressFb c m k .blue) r col .blue c.color.b := by
  rw [progressFb_blue h, progressFb_green h, progressFb_succ h]
  rfl

/-! ## Where a command stands -/

/-- `s` is where command `c`, issued over the framebuffer `m`, stands. -/
structure Drawing (c : InFlight) (m : Memory) (s : State) : Prop where
  fb : s.fb = progressFb c m s.hIdx s.hChan
  inFlight : s.hCmd = if s.hIdx = (cellCoords c.cmd).length then none else some c
  inside : s.hIdx ≤ (cellCoords c.cmd).length
  atRed : s.hIdx = (cellCoords c.cmd).length ∨ s.cfg.channelTear = false → s.hChan = .red

/-- How many host steps a command has taken. -/
def position (s : State) : Nat := stepsPerCell s.cfg * s.hIdx + channelIndex s.hChan

theorem Drawing.lt_of_inFlight {c : InFlight} {m : Memory} {s : State} (h : Drawing c m s) (hc : s.hCmd = some c) :
    s.hIdx < (cellCoords c.cmd).length := by
  refine Nat.lt_of_le_of_ne h.inside fun hend => ?_
  have hnone := h.inFlight
  rw [if_pos hend, hc] at hnone
  cases hnone

theorem Drawing.eq_end_of_none {c : InFlight} {m : Memory} {s : State} (h : Drawing c m s) (hc : s.hCmd = none) :
    s.hIdx = (cellCoords c.cmd).length := by
  by_contra hne
  have hsome := h.inFlight
  rw [if_neg hne, hc] at hsome
  cases hsome

/-- A command that is done has drawn its whole list. -/
theorem Drawing.fb_of_none {c : InFlight} {m : Memory} {s : State} (h : Drawing c m s) (hc : s.hCmd = none) :
    s.fb = drawn c.color (cellCoords c.cmd) m := by
  have hend := h.eq_end_of_none hc
  rw [h.fb, h.atRed (.inl hend), hend, progressFb_end]

/-- A cell step goes one position on. -/
theorem Drawing.cellStep {c : InFlight} {m : Memory} {s : State} {r col : Nat} (h : Drawing c m s)
    (hcell : (cellCoords c.cmd)[s.hIdx]? = some (r, col)) :
    Drawing c m (cellStep c r col s) ∧ position (cellStep c r col s) = position s + 1 := by
  have hlt := lt_of_cell hcell
  have hfb := h.fb
  have hcount : (if s.hIdx + 1 < (cellCoords c.cmd).length then some c else none) =
      if s.hIdx + 1 = (cellCoords c.cmd).length then none else some c := by
    by_cases hend : s.hIdx + 1 = (cellCoords c.cmd).length
    · simp [hend]
    · rw [if_pos (by omega), if_neg hend]
  have hmid : ¬ (s.hIdx = (cellCoords c.cmd).length ∨ s.cfg.channelTear = false) ∨ s.cfg.channelTear = false := by
    cases s.cfg.channelTear <;> simp [Nat.ne_of_lt hlt]
  rcases cellStep_cases c r col s with ⟨ht, e⟩ | ⟨ht, hch, e⟩ | ⟨ht, hch, e⟩ | ⟨ht, hch, e⟩ <;> rw [e]
  · have hred := h.atRed (.inr ht)
    rw [hred] at hfb
    refine ⟨⟨?_, hcount, hlt, fun _ => rfl⟩, ?_⟩
    · simp [progressFb_succ hcell, hfb]
    · simp [position, stepsPerCell, ht, hred, channelIndex]
  · rw [hch] at hfb
    refine ⟨⟨?_, h.inFlight, h.inside, fun hd => absurd hd (hmid.resolve_right (by simp [ht]))⟩, ?_⟩
    · exact hfb ▸ (progressFb_green hcell m).symm
    · simp [position, hch, channelIndex]
  · rw [hch] at hfb
    refine ⟨⟨?_, h.inFlight, h.inside, fun hd => absurd hd (hmid.resolve_right (by simp [ht]))⟩, ?_⟩
    · exact hfb ▸ (progressFb_blue hcell m).symm
    · simp [position, hch, channelIndex]
  · rw [hch] at hfb
    refine ⟨⟨?_, hcount, hlt, fun _ => rfl⟩, ?_⟩
    · exact hfb ▸ (progressFb_succ_of_blue hcell m).symm
    · simp only [position, stepsPerCell, ht, hch, finishCell_cfg, finishCell_hIdx, finishCell_hChan, channelIndex, if_true]
      omega

/-! ## A command alone on the block -/

/-- The state `n` host choices are left, with a complete command at the front of the port: its issue. -/
theorem step_of_hostTurn {s : State} {ws rest : List Word} {i : Instr} (hwf : s.cfg.Wf) (hp : s.phase = Phase.idle)
    (hc : s.hCmd = none) (hd : decodeHost (ws ++ s.port) = .command i rest) (n : Nat) :
    step (hostTurn ws (n + 1) s) = exec i { s with port := rest, sched := List.replicate n .host ++ s.sched } := by
  have ha : nextAgent (hostTurn ws (n + 1) s) = .host := nextAgent_host_of rfl hp (.inr (by simp [hostTurn, hd]))
  rw [step_of_issue (s := hostTurn ws (n + 1) s) hwf ha hc]
  exact hostIssue_of_command (s := consumeChoice (hostTurn ws (n + 1) s)) hd

/-- A command that has cells, all in the grid, and the colour it needs, starts. -/
theorem exec_starts {s : State} {i : Instr} (hh : i.isHost = true) (hne : cellCoords i ≠ [])
    (hgrid : ∀ p ∈ cellCoords i, p.1 < 32 ∧ p.2 < 32) (hcolor : i = .clear ∨ s.dcValid = true)
    (hp : s.phase = Phase.idle) (hc : s.hCmd = none) (hi : s.initDone = true) :
    exec i s = .next (startCommand i (if i = .clear then zeroColor else s.drawColor) s) := by
  by_cases hclear : i = .clear
  · subst hclear
    exact exec_clear hp hc hi
  · rw [if_neg hclear, exec_of_cells_inGrid hp hc hi hh hclear hne hgrid,
      startColored_valid hne (hcolor.resolve_left hclear)]

theorem Drawing.start {i : Instr} (hne : cellCoords i ≠ []) (color : Color) (s : State) :
    Drawing ⟨i, color⟩ s.fb (startCommand i color s) where
  fb := rfl
  inFlight := by
    rw [if_neg]
    · rfl
    · exact Nat.ne_of_lt (List.length_pos_iff.mpr hne)
  inside := Nat.zero_le _
  atRed _ := rfl

/-- The channel counter counts less than a whole cell. -/
theorem Drawing.channelIndex_lt {c : InFlight} {m : Memory} {s : State} (h : Drawing c m s) :
    channelIndex s.hChan < stepsPerCell s.cfg := by
  cases ht : s.cfg.channelTear with
  | false => simp [stepsPerCell, ht, h.atRed (.inr ht), channelIndex]
  | true => simpa [stepsPerCell, ht] using Machine.channelIndex_lt s.hChan

/-- With host steps left, the command is in flight; with none, it is done. -/
theorem Drawing.inFlight_of_position {c : InFlight} {m : Memory} {s : State} {k : Nat} (h : Drawing c m s)
    (hk : position s + (k + 1) = cellSteps s.cfg c.cmd) : s.hCmd = some c := by
  have hne : s.hIdx ≠ (cellCoords c.cmd).length := by
    intro hend
    rw [position, cellSteps, hend] at hk
    omega
  rw [h.inFlight, if_neg hne]

theorem Drawing.done_of_position {c : InFlight} {m : Memory} {s : State} (h : Drawing c m s)
    (hk : position s = cellSteps s.cfg c.cmd) : s.hCmd = none := by
  have hend : s.hIdx = (cellCoords c.cmd).length := by
    by_contra hne
    have hlt : s.hIdx + 1 ≤ (cellCoords c.cmd).length := Nat.lt_of_le_of_ne h.inside hne
    have hmul := Nat.mul_le_mul_left (stepsPerCell s.cfg) hlt
    have hch := h.channelIndex_lt
    rw [position, cellSteps] at hk
    rw [Nat.mul_succ] at hmul
    omega
  rw [h.inFlight, if_pos hend]

/-- The next host step of a command in flight. -/
theorem Drawing.step {c : InFlight} {m : Memory} {s : State} {tl : List Agent} (h : Drawing c m s)
    (hgrid : ∀ p ∈ cellCoords c.cmd, p.1 < 32 ∧ p.2 < 32) (hwf : s.cfg.Wf) (hp : s.phase = Phase.idle)
    (hc : s.hCmd = some c) (hs : s.sched = .host :: tl) :
    ∃ t, Machine.step s = .next t ∧ Drawing c m t ∧ position t = position s + 1 ∧
      t = { s with fb := t.fb, hCmd := t.hCmd, hIdx := t.hIdx, hChan := t.hChan, sched := tl } := by
  obtain ⟨⟨r, col⟩, hcell⟩ : ∃ p, (cellCoords c.cmd)[s.hIdx]? = some p := ⟨_, List.getElem?_eq_getElem (h.lt_of_inFlight hc)⟩
  obtain ⟨hr, hcol⟩ := hgrid (r, col) (List.mem_of_getElem? hcell)
  have ha : nextAgent s = .host := nextAgent_host_of (by simp [chosenAgent, hs]) hp (.inl (by simp [hc]))
  have hstep : Machine.step s = .next (Machine.cellStep c r col (consumeChoice s)) :=
    (step_of_cell hwf ha hc).trans (hostCell_of_cell (s := consumeChoice s) hcell hr hcol)
  have hu : Drawing c m (consumeChoice s) := ⟨h.fb, h.inFlight, h.inside, h.atRed⟩
  obtain ⟨ht, hpos⟩ := hu.cellStep hcell
  have hchoice : consumeChoice s = { s with sched := tl } := by simp [consumeChoice, hs]
  refine ⟨_, hstep, ht, hpos, ?_⟩
  rw [hchoice]
  exact cellStep_frame c r col { s with sched := tl }

/-- What a command leaves at the end of its list. -/
def afterCommand (c : InFlight) (m : Memory) (s : State) : State :=
  { s with fb := drawn c.color (cellCoords c.cmd) m, hCmd := none, hIdx := (cellCoords c.cmd).length, hChan := .red }

@[simp] theorem afterCommand_fb (c : InFlight) (m : Memory) (s : State) :
    (afterCommand c m s).fb = drawn c.color (cellCoords c.cmd) m := rfl
@[simp] theorem afterCommand_hCmd (c : InFlight) (m : Memory) (s : State) : (afterCommand c m s).hCmd = none := rfl
@[simp] theorem afterCommand_drawColor (c : InFlight) (m : Memory) (s : State) :
    (afterCommand c m s).drawColor = s.drawColor := rfl
@[simp] theorem afterCommand_dcValid (c : InFlight) (m : Memory) (s : State) :
    (afterCommand c m s).dcValid = s.dcValid := rfl

theorem afterCommand_of_done {c : InFlight} {s : State} {m : Memory} (h : Drawing c m s) (hc : s.hCmd = none) :
    afterCommand c m s = s := by
  have hend := h.eq_end_of_none hc
  rw [afterCommand, ← h.fb_of_none hc, ← hc, ← hend, ← h.atRed (.inl hend)]

/-- The host steps a command has left take it to the end of its list. -/
theorem Drawing.reaches {c : InFlight} {m : Memory} (hgrid : ∀ p ∈ cellCoords c.cmd, p.1 < 32 ∧ p.2 < 32)
    {tl : List Agent} : ∀ (k : Nat) (s : State), Drawing c m s → s.cfg.Wf → s.phase = Phase.idle →
      position s + k = cellSteps s.cfg c.cmd → s.sched = List.replicate k .host ++ tl →
      Reaches k s { afterCommand c m s with sched := tl } := by
  intro k
  induction k with
  | zero =>
    intro s h _ _ hk hs
    rw [afterCommand_of_done h (h.done_of_position hk), ← show s.sched = tl from hs]
    rfl
  | succ k ih =>
    intro s h hwf hp hk hs
    obtain ⟨t, hstep, ht, hpos, hframe⟩ := h.step hgrid hwf hp (h.inFlight_of_position hk) hs
    have hcfg : t.cfg = s.cfg := by rw [hframe]
    have hphase : t.phase = s.phase := by rw [hframe]
    have hnext := ih t ht (hcfg ▸ hwf) (hphase.trans hp) (by rw [hpos, hcfg]; omega) (by rw [hframe]; rfl)
    have hsame : { afterCommand c m t with sched := tl } = { afterCommand c m s with sched := tl } := by
      rw [hframe]
      rfl
    exact .of_step hstep (hsame ▸ hnext)

/-- An accepted command and its host steps, alone on the block. -/
theorem reaches_afterCommand {i : Instr} {s : State} (hh : i.isHost = true) (hw : i.wellFormed = true)
    (hne : cellCoords i ≠ []) (hgrid : ∀ p ∈ cellCoords i, p.1 < 32 ∧ p.2 < 32) (hcolor : i = .clear ∨ s.dcValid = true)
    (hwf : s.cfg.Wf) (hp : s.phase = Phase.idle) (hc : s.hCmd = none) (hi : s.initDone = true) :
    Reaches (1 + cellSteps s.cfg i) (hostTurn (commandWords i) (1 + cellSteps s.cfg i) s)
      (afterCommand ⟨i, if i = .clear then zeroColor else s.drawColor⟩ s.fb s) := by
  rw [Nat.add_comm]
  have hissue := step_of_hostTurn hwf hp hc (decodeHost_commandWords s.port hw hh) (cellSteps s.cfg i)
  have hstart := exec_starts (s := { s with sched := List.replicate (cellSteps s.cfg i) .host ++ s.sched }) hh hne hgrid
    hcolor hp hc hi
  exact .of_step (hissue.trans hstart) ((Drawing.start hne _ _).reaches hgrid _ _ hwf hp (Nat.zero_add _) rfl)

/-- Settles O27: the framebuffer a command makes is its cells drawn one after the other, and a listed cell keeps the colour. -/
theorem commandWritesExactlyItsCells : Obligations.CommandWritesExactlyItsCells := by
  intro i s hh hw hne hgrid hcolor hwf hfb hp hc hi
  exact ⟨_, reaches_afterCommand hh hw hne hgrid hcolor hwf hp hc hi, rfl, drawn_wf hfb hgrid,
    fun row col _ hcol => readCell_drawn hfb hgrid hcol⟩

/-! ## Each command's cells -/

/-- A run of length 0: its word is taken off the port and nothing else happens. -/
theorem reaches_of_empty {i : Instr} {s : State} (hh : i.isHost = true) (hw : i.wellFormed = true)
    (hx : ∀ u : State, u.phase = Phase.idle → u.hCmd = none → u.initDone = true → exec i u = .next u)
    (hwf : s.cfg.Wf) (hp : s.phase = Phase.idle) (hc : s.hCmd = none) (hi : s.initDone = true) :
    Reaches 1 (hostTurn (commandWords i) 1 s) s :=
  .of_step ((step_of_hostTurn hwf hp hc (decodeHost_commandWords s.port hw hh) 0).trans (hx _ hp hc hi)) rfl

theorem cellSteps_clear (c : Config) : cellSteps c .clear = stepsPerCell c * 1024 := by
  rw [cellSteps, cellCoords, length_allCells]

theorem cellSteps_fillSolid (c : Config) : cellSteps c .fillSolid = stepsPerCell c * 1024 := by
  rw [cellSteps, cellCoords, length_allCells]

theorem cellSteps_drawPixel (c : Config) (row col : Byte) : cellSteps c (.drawPixel row col) = stepsPerCell c := Nat.mul_one _

theorem cellSteps_drawRowRun (c : Config) (row start n : Byte) :
    cellSteps c (.drawRowRun row start n) = stepsPerCell c * n.toNat := by
  simp [cellSteps, cellCoords]

theorem cellSteps_drawColRun (c : Config) (col start n : Byte) :
    cellSteps c (.drawColRun col start n) = stepsPerCell c * n.toNat := by
  simp [cellSteps, cellCoords]

theorem reaches_clear {s : State} (hwf : s.cfg.Wf) (hp : s.phase = Phase.idle) (hc : s.hCmd = none)
    (hi : s.initDone = true) :
    Reaches (1 + stepsPerCell s.cfg * 1024) (hostTurn [0x20000000] (1 + stepsPerCell s.cfg * 1024) s)
      (afterCommand ⟨.clear, zeroColor⟩ s.fb s) := by
  have h := reaches_afterCommand (i := .clear) rfl rfl allCells_ne_nil (fun p => mem_allCells.mp) (.inl rfl) hwf hp hc hi
  rw [if_pos rfl, cellSteps_clear] at h
  exact h

theorem reaches_fillSolid {s : State} (hwf : s.cfg.Wf) (hp : s.phase = Phase.idle) (hc : s.hCmd = none)
    (hi : s.initDone = true) (hd : s.dcValid = true) :
    Reaches (1 + stepsPerCell s.cfg * 1024) (hostTurn [0x30000000] (1 + stepsPerCell s.cfg * 1024) s)
      (afterCommand ⟨.fillSolid, s.drawColor⟩ s.fb s) := by
  have h := reaches_afterCommand (i := .fillSolid) rfl rfl allCells_ne_nil (fun p => mem_allCells.mp) (.inr hd) hwf hp hc hi
  rw [if_neg nofun, cellSteps_fillSolid] at h
  exact h

theorem readCell_afterCommand_all {c : InFlight} {s : State} {m : Memory} {row col : Nat} (h : cellCoords c.cmd = allCells)
    (hm : m.wf) (hr : row < 32) (hc : col < 32) : readCell (afterCommand c m s).fb row col = c.color := by
  rw [afterCommand_fb, h, readCell_drawn hm (fun p => mem_allCells.mp) hc, if_pos (mem_allCells.mpr ⟨hr, hc⟩)]

/-- Settles O28: both commands draw every cell. -/
theorem clearAndFillLeaveOneColor : Obligations.ClearAndFillLeaveOneColor := by
  intro s hwf hfb hp hc hi n
  exact ⟨⟨_, reaches_clear hwf hp hc hi, afterCommand_hCmd _ _ _, afterCommand_drawColor _ _ _,
      fun row col => readCell_afterCommand_all rfl hfb⟩,
    fun hd => ⟨_, reaches_fillSolid hwf hp hc hi hd, afterCommand_hCmd _ _ _, afterCommand_drawColor _ _ _,
      fun row col => readCell_afterCommand_all rfl hfb⟩⟩

/-- A command that draws in the draw colour, said by its cells. -/
theorem reaches_drawn_cells {i : Instr} {s : State} (hh : i.isHost = true) (hw : i.wellFormed = true) (hclear : i ≠ .clear)
    (hne : cellCoords i ≠ []) (hgrid : ∀ p ∈ cellCoords i, p.1 < 32 ∧ p.2 < 32) (hwf : s.cfg.Wf) (hfb : s.fb.wf)
    (hp : s.phase = Phase.idle) (hc : s.hCmd = none) (hi : s.initDone = true) (hd : s.dcValid = true) :
    ∃ t, Reaches (1 + cellSteps s.cfg i) (hostTurn (commandWords i) (1 + cellSteps s.cfg i) s) t ∧ t.hCmd = none ∧
      ∀ row col, row < 32 → col < 32 →
        readCell t.fb row col = if (row, col) ∈ cellCoords i then s.drawColor else readCell s.fb row col := by
  have h := reaches_afterCommand hh hw hne hgrid (.inr hd) hwf hp hc hi
  rw [if_neg hclear] at h
  exact ⟨_, h, rfl, fun row col _ hcol => readCell_drawn hfb hgrid hcol⟩

theorem mem_drawPixel {row col : Byte} {p : Nat × Nat} :
    p ∈ cellCoords (.drawPixel row col) ↔ p.1 = row.toNat ∧ p.2 = col.toNat := by
  rw [cellCoords, List.mem_singleton, Prod.ext_iff]

/-- Settles O29: the cells of a pixel and a run, in their operands; a run of length 0 has none and needs no step for them. -/
theorem pixelAndRunsChangeTheirCellsOnly : Obligations.PixelAndRunsChangeTheirCellsOnly := by
  refine fun s x y n hwf hfb hp hc hi hd => ⟨fun hx hy => ?_, fun hx hn => ⟨?_, ?_⟩⟩
  · have h := reaches_drawn_cells (i := .drawPixel x y) rfl rfl nofun (List.cons_ne_nil _ _)
      (fun p hmem => by obtain ⟨h1, h2⟩ := mem_drawPixel.mp hmem; omega) hwf hfb hp hc hi hd
    simp only [cellSteps_drawPixel, mem_drawPixel] at h
    exact h
  · by_cases h0 : n = 0
    · subst h0
      refine ⟨s, reaches_of_empty (i := .drawRowRun x y 0) rfl rfl (fun u hp hc hi => ?_) hwf hp hc hi, hc, fun row col _ _ => ?_⟩
      · exact (exec_drawRowRun hp hc hi hx hn).trans (startColored_empty rfl)
      · rw [if_neg (by simp)]
    · have h := reaches_drawn_cells (i := .drawRowRun x y n) rfl rfl nofun (mt cellCoords_drawRowRun_eq_nil.mp h0)
        (fun p hmem => by obtain ⟨h1, h2, h3⟩ := mem_drawRowRun.mp hmem; omega) hwf hfb hp hc hi hd
      simp only [cellSteps_drawRowRun, mem_drawRowRun] at h
      exact h
  · by_cases h0 : n = 0
    · subst h0
      refine ⟨s, reaches_of_empty (i := .drawColRun x y 0) rfl rfl (fun u hp hc hi => ?_) hwf hp hc hi, hc, fun row col _ _ => ?_⟩
      · exact (exec_drawColRun hp hc hi hx hn).trans (startColored_empty rfl)
      · rw [if_neg (by simp)]
    · have h := reaches_drawn_cells (i := .drawColRun x y n) rfl rfl nofun (mt cellCoords_drawColRun_eq_nil.mp h0)
        (fun p hmem => by obtain ⟨h1, h2, h3⟩ := mem_drawColRun.mp hmem; omega) hwf hfb hp hc hi hd
      simp only [cellSteps_drawColRun, mem_drawColRun] at h
      exact h

/-- Settles O30: a stencil's cells are those whose bit is 1. -/
theorem maskedFillIsAStencil : Obligations.MaskedFillIsAStencil := by
  intro s g hwf hfb hp hc hi hd hg
  by_cases hne : cellCoords (.drawMasked g) = []
  · have hlen : (allCells.filter fun c => (g.getD c.1 0).getLsbD c.2).length = 0 := by
      rw [List.length_eq_zero_iff]
      exact hne
    simp only [hlen]
    refine ⟨s, reaches_of_empty (i := .drawMasked g) rfl (by simp [Instr.wellFormed, hg]) (fun u hp hc hi => ?_) hwf hp hc hi,
      hc, fun row col hr hcol => ?_⟩
    · exact (exec_drawMasked hp hc hi g).trans (startColored_empty hne)
    · have hoff : (row, col) ∉ cellCoords (.drawMasked g) := by simp [hne]
      rw [mem_drawMasked] at hoff
      exact (if_neg fun hbit => hoff ⟨⟨hr, hcol⟩, hbit⟩).symm
  · obtain ⟨t, hreach, hnone, hcells⟩ := reaches_drawn_cells (i := .drawMasked g) rfl (by simp [Instr.wellFormed, hg]) nofun hne
      (fun p hmem => (mem_drawMasked.mp hmem).1) hwf hfb hp hc hi hd
    refine ⟨t, hreach, hnone, fun row col hr hcol => ?_⟩
    rw [hcells row col hr hcol]
    simp only [mem_drawMasked, hr, hcol, and_self, true_and, maskBit]

/-- Settles O31: after `SETCOLOR(0,0,0)` the fill draws the cells of `CLEAR` in its colour, from the same framebuffer. -/
theorem clearEndsAsABlackFill : Obligations.ClearEndsAsABlackFill := by
  intro s hwf hfb hp hc hi n
  have hset := (step_of_hostTurn (ws := [0x10000000, 0x30000000]) hwf hp hc (decodeHost_setColor 0 0 0 (word0 0x3 :: s.port))
    (1 + stepsPerCell s.cfg * 1024)).trans
      (exec_setColor (s := { s with port := _, sched := List.replicate _ .host ++ s.sched }) hp hc hi 0 0 0)
  have hfill := Reaches.of_step hset
    (reaches_fillSolid (s := { s with drawColor := ⟨0, 0, 0⟩, dcValid := true }) hwf hp hc hi rfl)
  rw [show 1 + stepsPerCell s.cfg * 1024 + 1 = 2 + n by omega] at hfill
  exact ⟨_, _, reaches_clear hwf hp hc hi, hfill, rfl, afterCommand_drawColor _ _ _, afterCommand_dcValid _ _ _,
    afterCommand_drawColor _ _ _, afterCommand_dcValid _ _ _⟩

end Sys2Proof.Machine

/-! PROOFS. A command in flight under any interleaving (spec/60_exceptions.md R197): only host steps move it on. -/

namespace Sys2Proof.Machine

/-- The host's registers and the framebuffer, as the account of a command sees them. -/
structure SameProgress (s t : State) : Prop where
  cfg : t.cfg = s.cfg
  fb : t.fb = s.fb
  drawColor : t.drawColor = s.drawColor
  dcValid : t.dcValid = s.dcValid
  hCmd : t.hCmd = s.hCmd
  hIdx : t.hIdx = s.hIdx
  hChan : t.hChan = s.hChan

/-- A step of the timer or the engine leaves a command where it stands. -/
theorem sameProgress_of_step {s t : State} (h : step s = .next t) (ha : nextAgent s ≠ .host) : SameProgress s t := by
  obtain ⟨-, ⟨-, rfl⟩ | ⟨-, -, i, hd, hx⟩ | ⟨hb, -⟩ | ⟨hb, -⟩⟩ := step_cases h
  · exact ⟨rfl, rfl, rfl, rfl, rfl, rfl, rfl⟩
  · obtain ⟨hcfg, hfb, hcolor, hvalid, -, hcmd, hidx, hchan, -⟩ := engine_frame (s := consumeChoice s) hd hx
    exact ⟨hcfg, hfb, hcolor, hvalid, hcmd, hidx, hchan⟩
  · exact absurd hb ha
  · exact absurd hb ha

theorem Drawing.of_sameProgress {c : InFlight} {m : Memory} {s t : State} (h : Drawing c m s) (hs : SameProgress s t) :
    Drawing c m t := by
  obtain ⟨hcfg, hfb, -, -, hcmd, hidx, hchan⟩ := hs
  obtain ⟨h1, h2, h3, h4⟩ := h
  constructor
  · rw [hfb, hidx, hchan, h1]
  · rw [hcmd, hidx, h2]
  · rw [hidx]
    exact h3
  · rw [hidx, hchan, hcfg]
    exact h4

theorem position_of_sameProgress {s t : State} (hs : SameProgress s t) : position t = position s := by
  rw [position, position, hs.cfg, hs.hIdx, hs.hChan]

/-- A host step with a command in flight is its next cell step. -/
theorem host_step_of_inFlight {s t : State} {c : InFlight} (h : step s = .next t) (ha : nextAgent s = .host)
    (hc : s.hCmd = some c) :
    ∃ r col, (cellCoords c.cmd)[s.hIdx]? = some (r, col) ∧ t = cellStep c r col (consumeChoice s) := by
  obtain ⟨-, ⟨hb, -⟩ | ⟨hb, -⟩ | ⟨-, -, c', hc', hx⟩ | ⟨-, -, hn, -⟩⟩ := step_cases h
  · simp [ha] at hb
  · simp [ha] at hb
  · obtain rfl : c = c' := Option.some.inj (hc.symm.trans hc')
    obtain ⟨r, col, hcell, -, -, ht⟩ := hostCell_next.mp hx
    exact ⟨r, col, hcell, ht⟩
  · simp [hc] at hn

/-- What a run from a command's issue keeps while the command is in flight. -/
structure CommandAccount (c : InFlight) (σ : Nat → State) (n : Nat) : Prop where
  drawing : Drawing c (σ 0).fb (σ n)
  steps : hostSteps σ n = position (σ n)
  cfg : (σ n).cfg = (σ 0).cfg
  drawColor : (σ n).drawColor = (σ 0).drawColor
  dcValid : (σ n).dcValid = (σ 0).dcValid

theorem CommandAccount.zero {c : InFlight} {σ : Nat → State} (hinv : Inv (σ 0)) (hc : (σ 0).hCmd = some c)
    (hi : (σ 0).hIdx = 0) (hch : (σ 0).hChan = .red) : CommandAccount c σ 0 := by
  obtain ⟨-, -, -, -, -, hcmd, -⟩ := hinv
  obtain ⟨-, -, hlt, -⟩ := hcmd c hc
  refine ⟨⟨?_, ?_, Nat.le_of_lt hlt, fun _ => hch⟩, ?_, rfl, rfl, rfl⟩
  · rw [hi, hch, progressFb_zero]
  · rw [hc, if_neg (Nat.ne_of_lt hlt)]
  · simp [position, hi, hch, channelIndex]

theorem CommandAccount.succ {c : InFlight} {σ : Nat → State} {n : Nat} (h : CommandAccount c σ n)
    (hc : (σ n).hCmd = some c) (hstep : step (σ n) = .next (σ (n + 1))) : CommandAccount c σ (n + 1) := by
  obtain ⟨hdraw, hsteps, hcfg, hcolor, hvalid⟩ := h
  by_cases ha : nextAgent (σ n) = .host
  · obtain ⟨r, col, hcell, ht⟩ := host_step_of_inFlight hstep ha hc
    have hu : Drawing c (σ 0).fb (consumeChoice (σ n)) := ⟨hdraw.fb, hdraw.inFlight, hdraw.inside, hdraw.atRed⟩
    obtain ⟨hdraw', hpos⟩ := hu.cellStep hcell
    have hframe := cellStep_frame c r col (consumeChoice (σ n))
    rw [← ht] at hdraw' hpos hframe
    refine ⟨hdraw', ?_, ?_, ?_, ?_⟩
    · rw [hostSteps_succ, if_pos ha, hsteps, hpos]
      rfl
    · rw [hframe]
      exact hcfg
    · rw [hframe]
      exact hcolor
    · rw [hframe]
      exact hvalid
  · have hs := sameProgress_of_step hstep ha
    refine ⟨hdraw.of_sameProgress hs, ?_, hs.cfg.trans hcfg, hs.drawColor.trans hcolor, hs.dcValid.trans hvalid⟩
    rw [hostSteps_succ, if_neg ha, hsteps, position_of_sameProgress hs, Nat.add_zero]

theorem RunUpTo.commandAccount {c : InFlight} {σ : Nat → State} {n : Nat} (h : RunUpTo σ n) (hinv : Inv (σ 0))
    (hc : (σ 0).hCmd = some c) (hi : (σ 0).hIdx = 0) (hch : (σ 0).hChan = .red)
    (hfly : ∀ m, m < n → (σ m).hCmd = some c) : CommandAccount c σ n :=
  h.induct (P := CommandAccount c σ) (.zero hinv hc hi hch) (fun m hm ha hs => ha.succ (hfly m hm) hs) n le_rfl

/-- Settles O60: each host step is the next cell step, each other step leaves the command's progress alone; so the
framebuffer is a function of the progress, and at the end of the list of the command only. -/
theorem commandIsPreciseUnderAnyInterleaving : Obligations.CommandIsPreciseUnderAnyInterleaving := by
  refine ⟨fun σ n c hrun hinv hc hi hch hfly => ?_, fun σ τ m n c hσ hτ iσ iτ hi hi' hch hch' hfb fσ fτ hc hc' hn hn' => ?_⟩
  · obtain ⟨hdraw, hsteps, hcfg, hcolor, hvalid⟩ := hrun.commandAccount hinv hc hi hch hfly
    obtain ⟨-, hfb, -, -, -, hcmd, -⟩ := hinv
    obtain ⟨-, -, -, hgrid⟩ := hcmd c hc
    refine ⟨hcolor, hvalid, hcfg ▸ hsteps, hdraw.inFlight, fun hred row col _ hcol => ?_⟩
    rw [hdraw.fb, hred, progressFb_red, readCell_drawn hfb (fun p hp => hgrid p (List.mem_of_mem_take hp)) hcol]
  · rw [(hσ.commandAccount iσ hc hi hch fσ).drawing.fb_of_none hn,
      (hτ.commandAccount iτ hc' hi' hch' fτ).drawing.fb_of_none hn', hfb]

end Sys2Proof.Machine

/-! PROOFS. The sequencer's operations one by one, the timer, and what each kind of step can change
(spec/41_scanout_engine.md R151 to R160, R164, spec/60_exceptions.md R202 to R208). -/

namespace Sys2Proof.Machine

/-! ## The timer (R202) -/

theorem tick_of_expires {s : State} (he : s.tEn = true) (hc : s.tCount ≤ 1) :
    tick s = { s with tPend := true, tCount := s.tReload, trace := s.trace ++ [.tick] } := by
  simp [tick, expires, he, hc]

theorem tick_of_counting {s : State} (he : s.tEn = true) (hc : 2 ≤ s.tCount) :
    tick s = { s with tCount := s.tCount - 1, trace := s.trace ++ [.tick] } := by
  simp [tick, expires, he, show ¬ s.tCount ≤ 1 by omega]

/-- Settles O44, case by case. -/
theorem tickCountsDownAndReloads : Obligations.TickCountsDownAndReloads :=
  fun _ => ⟨tick_of_stopped, tick_of_expires, tick_of_counting⟩

theorem iterate_tick_tPend {s : State} (h : s.tPend = true) (n : Nat) : (tick^[n] s).tPend = true := by
  induction n generalizing s with
  | zero => exact h
  | succ n ih => exact ih (s := tick s) (by simp [h])

/-- Settles O45: each tick before the last takes one off the count, the last latches, and no tick clears. -/
theorem expiryIsLatchedAtTheLoadedTick : Obligations.ExpiryIsLatchedAtTheLoadedTick := by
  intro s n
  induction n generalizing s with
  | zero =>
    intro _ hp hc
    rw [Function.iterate_zero_apply, hp]
    simp
    omega
  | succ n ih =>
    intro he hp hc
    rw [Function.iterate_succ_apply]
    by_cases h1 : s.tCount ≤ 1
    · have hlatched : (tick s).tPend = true := by rw [tick_of_expires he h1]
      simp only [iterate_tick_tPend hlatched, true_iff]
      omega
    · obtain ⟨hp', hc'⟩ : (tick s).tPend = false ∧ (tick s).tCount = s.tCount - 1 := by
        rw [tick_of_counting he (by omega)]
        exact ⟨hp, rfl⟩
      rw [ih (tick s) he hp' (by omega), hc']
      omega

/-! ## The column word (R156) -/

/-- Settles O41, bit by bit. -/
theorem columnWordTestsOneBitOfSixChannels : Obligations.ColumnWordTestsOneBitOfSixChannels := by
  intro m p k c
  simp only [colWord, colWordOf, bitOf, BitVec.getLsbD_append, BitVec.getLsbD_ofBool]
  simp

/-- The column word's bit of a channel, upper rows first. -/
theorem colWord_getLsbD (m : Memory) (p k c : Nat) (ch : Channel) :
    (colWord m p k c).getLsbD (channelIndex ch) = (channelOf (readCell m p c) ch).getLsbD k ∧
      (colWord m p k c).getLsbD (channelIndex ch + 3) = (channelOf (readCell m (p + 16) c) ch).getLsbD k := by
  obtain ⟨h0, h1, h2, h3, h4, h5⟩ := columnWordTestsOneBitOfSixChannels m p k c
  cases ch with
  | red => exact ⟨h0, h3⟩
  | green => exact ⟨h1, h4⟩
  | blue => exact ⟨h2, h5⟩

/-! ## Operations at their phase -/

theorem exec_shift {s : State} (h : s.phase = Phase.shift) :
    exec .shift s = .next { emit .sck (emit (.data (colWord s.fb s.rowPair.toNat s.bitPlane.toNat s.colCnt.toNat)) s) with
      colCnt := if lastColumn s then 0 else s.colCnt + 1
      phase := if lastColumn s then Phase.latch else Phase.shift } := inPhase_pos h

theorem exec_latch {s : State} (h : s.phase = Phase.latch) :
    exec .latch s = .next { emit .lat s with phase := Phase.unblank } := inPhase_pos h

theorem exec_unblank {s : State} (h : s.phase = Phase.unblank) :
    exec .unblank s = .next { emit (.blank false) s with phase := Phase.treload } := inPhase_pos h

/-- Settles O35: the map has the row-pair's entry, and the two events follow each other. -/
theorem rowselBlanksThenSelects : Obligations.RowselBlanksThenSelects := by
  intro s hp hwf
  obtain ⟨v, hv, hlt⟩ := rowSelect_some hwf s.rowPair
  refine ⟨v, hv, hlt, (exec_rowsel hp hv).trans ?_⟩
  simp [emit]

/-- Settles O36: `COLCNT = 31` decides between the two cases. -/
theorem shiftPutsOutOneColumn : Obligations.ShiftPutsOutOneColumn := by
  refine fun s hp => ⟨fun hc => (exec_shift hp).trans ?_, fun hc => (exec_shift hp).trans ?_⟩
  · have hl : lastColumn s = false := by simpa [lastColumn] using hc
    simp [emit, hl, hp]
  · have hl : lastColumn s = true := by simpa [lastColumn] using hc
    simp [emit, hl]

/-- Settles O39: the table has the plane's entry. -/
theorem treloadStartsThePlanesDuration : Obligations.TreloadStartsThePlanesDuration := by
  intro s hp hwf hb
  obtain ⟨v, hv, hpos, hlt⟩ := bcm_some hwf hb
  exact ⟨v, hv, hpos, hlt, exec_treload hp hv⟩

/-! ## Out of phase -/

theorem inPhase_neg {p : BitVec 4} {op : Instr} {s : State} {k : Out} (h : s.phase ≠ p) :
    inPhase p op s k = .refused (.notEnabled op) := if_neg h

theorem exec_entry_refused {s : State} (h : entryEnabled s = false) : exec .entry s = .refused (.notEnabled .entry) :=
  if_neg (by simp [h])

/-- Settles O43: every sequencer operation asks for its own phase first, and no row of R97 has a code above 8. -/
theorem operationsOutsideTheirPhaseAreRefused : Obligations.OperationsOutsideTheirPhaseAreRefused := by
  refine ⟨fun i c s he hp => ?_, fun s h => exec_entry_refused ?_, fun s h => ?_⟩
  · cases i with
    | entry =>
      obtain rfl := Code.phase.inj he
      exact exec_entry_refused (entryEnabled_of_phase_ne hp)
    | tstop | tack | rowsel | shift | latch | unblank | treload | advance =>
      obtain rfl := Code.phase.inj he
      exact inPhase_neg hp
    | setColor | clear | fillSolid | drawPixel | drawRowRun | drawColRun | drawMasked | initDisplay | schedEnable => cases he
  · rcases h with h | h <;> simp [entryEnabled, h]
  · have hnone : ∀ c : BitVec 4, 9 ≤ c.toNat → decodePhase c = none := by decide
    simp only [engineStep, hnone s.phase h]

/-- A sequencer operation that answers a next state is the one of its phase. -/
theorem decodePhase_of_exec_next {i : Instr} {s t : State} (hi : i.isHost = false) (h : exec i s = .next t) :
    decodePhase s.phase = some i := by
  obtain ⟨c, he, hd⟩ := encode_of_not_isHost hi
  by_contra hne
  have hp : s.phase ≠ c := fun hp => hne (hp ▸ hd)
  have hrefused := operationsOutsideTheirPhaseAreRefused.1 i c s he hp
  rw [h] at hrefused
  cases hrefused

/-- Settles O42: such an operation is the one of its phase, and the engine leaves all this alone. -/
theorem engineNeverWritesHostState : Obligations.EngineNeverWritesHostState := by
  intro i s t hi hx
  obtain ⟨hcfg, hfb, hrest⟩ := engine_frame (decodePhase_of_exec_next hi hx) hx
  exact ⟨hcfg, fun a => by rw [hfb], hrest⟩

/-! ## What a host step can change -/

/-- The registers that are the engine's, in a step of the host that is not set-up. -/
structure EngineRegistersKept (s t : State) : Prop where
  initDone : t.initDone = s.initDone
  cursor : t.rowPair = s.rowPair ∧ t.bitPlane = s.bitPlane
  lines : t.sel = s.sel ∧ t.blank = s.blank ∧ t.lat = s.lat ∧ t.sck = s.sck ∧ t.d = s.d
  timer : t.tReload = s.tReload ∧ t.tCount = s.tCount ∧ t.tPend = s.tPend
  enabled : s.tEn = true → t.tEn = true

/-- A step of the host, seen from outside the drawing surface. -/
structure HostStep (s t : State) : Prop where
  phase : s.phase = Phase.idle ∧ t.phase = Phase.idle
  cfg : t.cfg = s.cfg
  panel : t.pSr = s.pSr ∧ t.pLatch = s.pLatch ∧ t.trace = s.trace
  dcValid : s.dcValid = true → t.dcValid = true
  setUp : EngineRegistersKept s t ∨ (s.initDone = false ∧ t.initDone = true ∧ t.rowPair = 0 ∧ t.bitPlane = 0)

theorem hostStep_of_step {s t : State} (h : step s = .next t) (ha : nextAgent s = .host) : HostStep s t := by
  obtain ⟨-, ⟨hb, -⟩ | ⟨hb, -⟩ | ⟨-, hp, c, -, hx⟩ | ⟨-, hp, -, i, rest, hd, hx⟩⟩ := step_cases h
  · simp [ha] at hb
  · simp [ha] at hb
  · obtain ⟨r, col, -, -, -, rfl⟩ := hostCell_next.mp hx
    rw [cellStep_frame]
    exact ⟨⟨hp, hp⟩, rfl, ⟨rfl, rfl, rfl⟩, id, .inl ⟨rfl, ⟨rfl, rfl⟩, ⟨rfl, rfl, rfl, rfl, rfl⟩, ⟨rfl, rfl, rfl⟩, id⟩⟩
  · rcases exec_host_next (decodeHost_command hd).1 hx with
      ⟨-, ⟨-, h0, rfl⟩ | ⟨-, ⟨-, rfl⟩ | ⟨r, g, b, -, rfl⟩ | ⟨-, rfl⟩ | ⟨-, -, c, rfl, -⟩⟩⟩
    · exact ⟨⟨hp, rfl⟩, rfl, ⟨rfl, rfl, rfl⟩, id, .inr ⟨h0, rfl, rfl, rfl⟩⟩
    · exact ⟨⟨hp, hp⟩, rfl, ⟨rfl, rfl, rfl⟩, id,
        .inl ⟨rfl, ⟨rfl, rfl⟩, ⟨rfl, rfl, rfl, rfl, rfl⟩, ⟨rfl, rfl, rfl⟩, fun _ => rfl⟩⟩
    · exact ⟨⟨hp, hp⟩, rfl, ⟨rfl, rfl, rfl⟩, fun _ => rfl,
        .inl ⟨rfl, ⟨rfl, rfl⟩, ⟨rfl, rfl, rfl, rfl, rfl⟩, ⟨rfl, rfl, rfl⟩, id⟩⟩
    · exact ⟨⟨hp, hp⟩, rfl, ⟨rfl, rfl, rfl⟩, id, .inl ⟨rfl, ⟨rfl, rfl⟩, ⟨rfl, rfl, rfl, rfl, rfl⟩, ⟨rfl, rfl, rfl⟩, id⟩⟩
    · exact ⟨⟨hp, hp⟩, rfl, ⟨rfl, rfl, rfl⟩, id, .inl ⟨rfl, ⟨rfl, rfl⟩, ⟨rfl, rfl, rfl, rfl, rfl⟩, ⟨rfl, rfl, rfl⟩, id⟩⟩

/-- A step, agent by agent: a tick, the operation of the phase, or a host step. -/
theorem step_agent_cases {s t : State} (h : step s = .next t) :
    (nextAgent s = .timer ∧ t = tick (consumeChoice s)) ∨
      (nextAgent s = .engine ∧ ∃ i, decodePhase s.phase = some i ∧ exec i (consumeChoice s) = .next t) ∨
      (nextAgent s = .host ∧ HostStep s t) := by
  obtain ⟨-, ht | ⟨ha, -, hx⟩ | ⟨ha, -⟩ | ⟨ha, -⟩⟩ := step_cases h
  · exact .inl ht
  · exact .inr (.inl ⟨ha, hx⟩)
  · exact .inr (.inr ⟨ha, hostStep_of_step h ha⟩)
  · exact .inr (.inr ⟨ha, hostStep_of_step h ha⟩)

/-- Set-up happens once: with `INIT_DONE` 1 a host step keeps the engine's registers. -/
theorem HostStep.kept {s t : State} (h : HostStep s t) (h1 : s.initDone = true) : EngineRegistersKept s t :=
  h.setUp.resolve_right fun h0 => by simp [h1] at h0

/-! ## What only some steps change -/

/-- Settles O51. -/
theorem onlyAdvanceAndInitDisplayWriteTheCursor : Obligations.OnlyAdvanceAndInitDisplayWriteTheCursor := by
  intro s t hstep hne
  rcases step_agent_cases hstep with ⟨-, rfl⟩ | ⟨ha, i, hd, hx⟩ | ⟨-, hh⟩
  · simp at hne
  · refine .inl ⟨ha, ?_⟩
    by_contra hp
    obtain ⟨-, -, -, hcur⟩ := exec_engine_sequence (s := consumeChoice s) hd hx
    obtain ⟨hr, hb⟩ := hcur hp
    simp [hr, hb] at hne
  · rcases hh.setUp with hk | hset
    · simp [hk.cursor] at hne
    · exact .inr hset

/-- Settles O52. -/
theorem framebufferChangesOnlyByACommandInFlight : Obligations.FramebufferChangesOnlyByACommandInFlight := by
  intro s t hstep hne
  rcases step_agent_cases hstep with ⟨-, rfl⟩ | ⟨-, i, hd, hx⟩ | ⟨ha, hh⟩
  · exact absurd rfl hne
  · exact absurd (engine_frame (s := consumeChoice s) hd hx).2.1 hne
  · obtain ⟨-, hfb | hcell⟩ := host_step_picture hstep ha
    · exact absurd hfb hne
    · exact ⟨ha, hh.phase.1, hh.phase.2, hcell⟩

/-- An engine step that stops the timer is `TSTOP`. -/
theorem engine_tEn {s t : State} {i : Instr} (hd : decodePhase s.phase = some i) (hx : exec i s = .next t)
    (hp : s.phase ≠ Phase.tstop) (h : s.tEn = true) : t.tEn = true := by
  rcases engine_cases hd hx with ⟨-, -, -, rfl⟩ | ⟨ht, rfl⟩ | ⟨-, rfl⟩ | ⟨-, v, -, rfl⟩ | ⟨-, rfl⟩ | ⟨-, rfl⟩ |
    ⟨-, rfl⟩ | ⟨-, v, -, rfl⟩ | ⟨-, rfl⟩
  case inr.inl => exact absurd ht hp
  all_goals simp [h]

/-- Settles O53. -/
theorem noStepUndoesSetUp : Obligations.NoStepUndoesSetUp := by
  intro s t hstep
  rcases step_agent_cases hstep with ⟨-, rfl⟩ | ⟨ha, i, hd, hx⟩ | ⟨-, hh⟩
  · exact ⟨rfl, id, id, fun _ h1 h0 => by simp [h1] at h0⟩
  · obtain ⟨hcfg, -, -, hvalid, hinit, -⟩ := engine_frame (s := consumeChoice s) hd hx
    refine ⟨hcfg, fun h => hinit.trans h, fun h => hvalid.trans h, fun _ h1 h0 => ⟨ha, ?_⟩⟩
    by_contra hp
    simp [engine_tEn (s := consumeChoice s) hd hx hp h1] at h0
  · refine ⟨hh.cfg, fun h => (hh.kept h).initDone.trans h, hh.dcValid, fun hi h1 h0 => ?_⟩
    simp [(hh.kept hi).enabled h1] at h0

/-- Settles O54. -/
theorem onlySetColorChangesTheDrawColor : Obligations.OnlySetColorChangesTheDrawColor := by
  intro s t hstep hne
  obtain ⟨-, ⟨-, rfl⟩ | ⟨-, -, i, hd, hx⟩ | ⟨-, -, c, -, hx⟩ | ⟨ha, -, -, i, rest, hd, hx⟩⟩ := step_cases hstep
  · exact absurd rfl hne
  · exact absurd (engine_frame (s := consumeChoice s) hd hx).2.2.1 hne
  · obtain ⟨r, col, -, -, -, rfl⟩ := hostCell_next.mp hx
    rw [cellStep_frame] at hne
    exact absurd rfl hne
  · rcases exec_host_next (decodeHost_command hd).1 hx with
      ⟨-, ⟨-, -, rfl⟩ | ⟨-, ⟨-, rfl⟩ | ⟨r, g, b, rfl, rfl⟩ | ⟨-, rfl⟩ | ⟨-, -, c, rfl, -⟩⟩⟩
    on_goal 3 => exact ⟨ha, r, g, b, rest, hd, rfl⟩
    all_goals exact absurd rfl hne

/-- Settles O55: a tick touches no pin, the host only in set-up, and each operation of the engine its own lines. -/
theorem pinsChangeOnlyInTheirPhases : Obligations.PinsChangeOnlyInTheirPhases := by
  intro s t hstep
  rcases step_agent_cases hstep with ⟨-, rfl⟩ | ⟨ha, i, hd, hx⟩ | ⟨ha, hh⟩
  · simp [pinEvents]
  · rcases engine_cases (s := consumeChoice s) hd hx with ⟨hp, -, -, rfl⟩ | ⟨hp, rfl⟩ | ⟨hp, rfl⟩ | ⟨hp, v, -, rfl⟩ |
      ⟨hp, rfl⟩ | ⟨hp, rfl⟩ | ⟨hp, rfl⟩ | ⟨hp, v, -, rfl⟩ | ⟨hp, rfl⟩ <;>
    simp only [consumeChoice_phase] at hp <;> simp [ha, hp]
  · rcases hh.setUp with hk | ⟨h0, h1, -⟩
    · simp [hk.lines, hh.panel]
    · simp [h0, h1, hh.panel]

/-! ## Latch and unblank (R157, R158, R208) -/

theorem lit_of_blank {s : State} (h : s.blank = true) (wiring : List Nat) (row col : Nat) (ch : Channel) :
    lit wiring s row col ch = false := by
  simp [lit, h]

/-- An engine step that reaches `LATCH` is the `SHIFT` of column 31. -/
theorem engine_reaches_latch {s t : State} {i : Instr} (hd : decodePhase s.phase = some i) (hx : exec i s = .next t)
    (ht : t.phase = Phase.latch) : s.phase = Phase.shift ∧ s.colCnt = 31 := by
  rcases engine_cases hd hx with ⟨-, -, -, rfl⟩ | ⟨-, rfl⟩ | ⟨-, rfl⟩ | ⟨-, v, -, rfl⟩ | ⟨hp, rfl⟩ | ⟨-, rfl⟩ |
    ⟨-, rfl⟩ | ⟨-, v, -, rfl⟩ | ⟨-, rfl⟩
  case inr.inr.inr.inr.inl =>
    exact ⟨hp, by simpa [lastColumn] using ht⟩
  all_goals simp at ht

theorem engine_pLatch {s t : State} {i : Instr} (hd : decodePhase s.phase = some i) (hx : exec i s = .next t)
    (hp : s.phase ≠ Phase.latch) : t.pLatch = s.pLatch := by
  rcases engine_cases hd hx with ⟨-, -, -, rfl⟩ | ⟨-, rfl⟩ | ⟨-, rfl⟩ | ⟨-, v, -, rfl⟩ | ⟨-, rfl⟩ | ⟨hl, rfl⟩ |
    ⟨-, rfl⟩ | ⟨-, v, -, rfl⟩ | ⟨-, rfl⟩
  case inr.inr.inr.inr.inr.inl => exact absurd hl hp
  all_goals rfl

/-- Settles O37. -/
theorem latchStrobesOnce : Obligations.LatchStrobesOnce := by
  refine ⟨fun s hp => exec_latch hp, fun s t hstep hs ht => ?_, fun s t hstep hne => ?_, fun s t hinv hx wiring row col ch => ?_⟩
  · rcases step_agent_cases hstep with ⟨-, rfl⟩ | ⟨ha, i, hd, hx⟩ | ⟨-, hh⟩
    · exact absurd ht hs
    · exact ⟨ha, engine_reaches_latch (s := consumeChoice s) hd hx ht⟩
    · simp [hh.phase.2] at ht
  · rcases step_agent_cases hstep with ⟨-, rfl⟩ | ⟨ha, i, hd, hx⟩ | ⟨-, hh⟩
    · exact absurd rfl hne
    · refine ⟨ha, ?_⟩
      by_contra hp
      exact hne (engine_pLatch (s := consumeChoice s) hd hx hp)
    · exact absurd hh.panel.2.1 hne
  · obtain ⟨-, -, -, -, ⟨-, hdark, -⟩, -⟩ := hinv
    obtain ⟨hp, rfl⟩ := execLatch_next hx
    have hblank : s.blank = true := hdark (by simp [hp])
    exact ⟨lit_of_blank hblank _ _ _ _, lit_of_blank (s := { emit .lat s with phase := Phase.unblank }) hblank _ _ _ _⟩

/-- What a panel that is not blanked shows on a row of pair `p`. -/
theorem lit_eq {s : State} (hb : s.blank = false) (wiring : List Nat) {row col : Nat} (hr : row < 32) (hc : col < 32)
    (ch : Channel) :
    lit wiring s row col ch =
      (decide (wiring[row % 16]? = some s.sel) && (s.pLatch.getD col 0).getLsbD (latchBit row ch)) := by
  have hbeq : (wiring[row % 16]? == some s.sel) = decide (wiring[row % 16]? = some s.sel) := by
    rw [Bool.eq_iff_iff]
    simp
  simp [lit, hb, hr, hc, hbeq]

/-- Settles O38. -/
theorem unblankMakesTheRowPairVisible : Obligations.UnblankMakesTheRowPairVisible := by
  refine ⟨fun s hp => exec_unblank hp, fun wiring s t hinv hx => ?_⟩
  obtain ⟨-, -, -, -, ⟨-, hdark, -⟩, -⟩ := hinv
  obtain ⟨hp, ht⟩ := execUnblank_next hx
  have hb : t.blank = false := by rw [ht]; rfl
  refine ⟨lit_of_blank (hdark (by simp [hp])) wiring, fun p c hp16 hc => ?_⟩
  have hupper := lit_eq hb wiring (show p < 32 by omega) hc
  have hlower := lit_eq hb wiring (show p + 16 < 32 by omega) hc
  rw [Nat.mod_eq_of_lt hp16] at hupper
  rw [Nat.add_mod_right, Nat.mod_eq_of_lt hp16] at hlower
  refine ⟨fun hw => ?_, fun hw ch => ?_⟩
  · simp [hupper, hlower, hw, latchBit, hp16, channelIndex]
  · simp [hupper, hlower, hw]

end Sys2Proof.Machine

/-! PROOFS. A whole invocation as one transition, the same under every interleaving of host and timer, and what the panel
shows after it (spec/41_scanout_engine.md R162, R165, spec/20_memory.md R70). -/

namespace Sys2Proof.Machine

/-! ## Traces in pieces -/

@[simp] theorem pinEvents_append (a b : List TraceMark) : pinEvents (a ++ b) = pinEvents a ++ pinEvents b :=
  List.filterMap_append

@[simp] theorem tickCount_append (a b : List TraceMark) : tickCount (a ++ b) = tickCount a + tickCount b :=
  List.count_append

@[simp] theorem pinEvents_nil : pinEvents [] = [] := rfl

@[simp] theorem pinEvents_cons_pin (e : PinEvent) (w : List TraceMark) : pinEvents (.pin e :: w) = e :: pinEvents w := rfl

@[simp] theorem pinEvents_cons_tick (w : List TraceMark) : pinEvents (.tick :: w) = pinEvents w := rfl

@[simp] theorem tickCount_nil : tickCount [] = 0 := rfl

@[simp] theorem tickCount_cons_pin (e : PinEvent) (w : List TraceMark) : tickCount (.pin e :: w) = tickCount w :=
  List.count_cons_of_ne (by simp)

@[simp] theorem tickCount_cons_tick (w : List TraceMark) : tickCount (.tick :: w) = tickCount w + 1 :=
  List.count_cons_self

/-- A trace without ticks is its pin events. -/
theorem eq_pins_of_no_tick {w : List TraceMark} (h : tickCount w = 0) : w = (pinEvents w).map .pin := by
  induction w with
  | nil => rfl
  | cons m w ih =>
    cases m with
    | pin e =>
      rw [tickCount_cons_pin] at h
      rw [pinEvents_cons_pin, List.map_cons, ← ih h]
    | tick => simp at h

/-! ## The words of an invocation -/

/-- The column words of the row-pair and plane the cursor is at. -/
def cursorWords (s : State) : List ColData := rowWords s.fb s.rowPair.toNat s.bitPlane.toNat

/-- One of them. -/
def cursorWord (s : State) (c : Nat) : ColData := colWord s.fb s.rowPair.toNat s.bitPlane.toNat c

theorem length_cursorWords (s : State) : (cursorWords s).length = 32 := by simp [cursorWords, rowWords]

theorem cursorWords_take_succ (s : State) {c : Nat} (h : c < 32) :
    (cursorWords s).take (c + 1) = (cursorWords s).take c ++ [cursorWord s c] := by
  simp [cursorWords, cursorWord, rowWords, List.take_add_one, h]

/-- Shifting one word into a register that already holds some of a row. -/
theorem shift_in {old ws : List ColData} {w : ColData} {c : Nat} (hold : old.length = 32) (hc : c < 32)
    (hw : ws.take (c + 1) = ws.take c ++ [w]) :
    (old.drop c ++ ws.take c).tail ++ [w] = old.drop (c + 1) ++ ws.take (c + 1) := by
  have hne : old.drop c ≠ [] := by simp [hold, hc]
  rw [List.tail_append_of_ne_nil hne, List.tail_drop, List.append_assoc, hw]

/-- What putting out some columns adds: data, then clock, for each. -/
def columnEvents (ws : List ColData) : List PinEvent := ws.flatMap fun w => [PinEvent.data w, PinEvent.sck]

theorem columnEvents_append_one (ws : List ColData) (w : ColData) :
    columnEvents (ws ++ [w]) = columnEvents ws ++ [PinEvent.data w, PinEvent.sck] := by
  simp [columnEvents]

/-- The pin events of an invocation that has come to phase `p`, with `c` columns shifted out when that is `SHIFT`. -/
def eventsAt (v : Nat) (ws : List ColData) (p : BitVec 4) (c : Nat) : List PinEvent :=
  if p.toNat < 4 then []
  else if p = Phase.shift then PinEvent.blank true :: PinEvent.sel v :: columnEvents (ws.take c)
  else if p = Phase.latch then PinEvent.blank true :: PinEvent.sel v :: columnEvents ws
  else if p = Phase.unblank then PinEvent.blank true :: PinEvent.sel v :: (columnEvents ws ++ [PinEvent.lat])
  else invocationEvents v ws

theorem invocationEvents_eq (v : Nat) (ws : List ColData) :
    invocationEvents v ws =
      PinEvent.blank true :: PinEvent.sel v :: (columnEvents ws ++ [PinEvent.lat] ++ [PinEvent.blank false]) := by
  simp [invocationEvents, columnEvents]

/-- How many engine steps of its invocation a state has behind it. -/
def stage (s : State) : Nat :=
  if s.phase.toNat < 4 then s.phase.toNat
  else if s.phase = Phase.shift then 4 + s.colCnt.toNat
  else s.phase.toNat + 31

/-! ## Inside an invocation -/

/-- What an invocation leaves alone until `ADVANCE`. -/
structure Undisturbed (s t : State) : Prop where
  cfg : t.cfg = s.cfg
  fb : t.fb = s.fb
  rowPair : t.rowPair = s.rowPair
  bitPlane : t.bitPlane = s.bitPlane
  drawColor : t.drawColor = s.drawColor
  dcValid : t.dcValid = s.dcValid
  initDone : t.initDone = s.initDone
  hCmd : t.hCmd = s.hCmd
  hIdx : t.hIdx = s.hIdx
  hChan : t.hChan = s.hChan
  port : t.port = s.port

theorem Undisturbed.trans {s t u : State} (h : Undisturbed s t) (h' : Undisturbed t u) : Undisturbed s u :=
  ⟨h'.cfg.trans h.cfg, h'.fb.trans h.fb, h'.rowPair.trans h.rowPair, h'.bitPlane.trans h.bitPlane,
    h'.drawColor.trans h.drawColor, h'.dcValid.trans h.dcValid, h'.initDone.trans h.initDone, h'.hCmd.trans h.hCmd,
    h'.hIdx.trans h.hIdx, h'.hChan.trans h.hChan, h'.port.trans h.port⟩

theorem undisturbed_consumeChoice (s : State) : Undisturbed s (consumeChoice s) :=
  ⟨rfl, rfl, rfl, rfl, rfl, rfl, rfl, rfl, rfl, rfl, rfl⟩

/-- `t` stands inside the invocation that began in `s₀`, whose row-pair has select code `v` and whose plane has duration `n`:
what each operation up to its phase has left, whatever ticks fell between them. A part that says nothing of the phase at hand is
closed by `simp` when the structure is built. -/
structure Midway (s₀ : State) (v n : Nat) (t : State) : Prop where
  kept : Undisturbed s₀ t
  legal : 1 ≤ t.phase.toNat ∧ t.phase.toNat ≤ 8 := by simp
  stopped : 2 ≤ t.phase.toNat ∧ t.phase.toNat ≤ 7 → t.tEn = false := by simp
  acknowledged : 3 ≤ t.phase.toNat ∧ t.phase.toNat ≤ 7 → t.tPend = false := by simp
  selected : 4 ≤ t.phase.toNat → t.sel = v := by simp
  unshifted : t.phase.toNat ≤ 3 → t.pSr = s₀.pSr := by simp
  shifting : t.phase = Phase.shift →
    t.pSr = s₀.pSr.drop t.colCnt.toNat ++ (cursorWords s₀).take t.colCnt.toNat := by simp
  shifted : 5 ≤ t.phase.toNat → t.colCnt = 0 ∧ t.pSr = cursorWords s₀ ∧
    t.d = cursorWord s₀ 31 ∧ t.sck = false := by simp
  latched : 6 ≤ t.phase.toNat → t.pLatch = cursorWords s₀ ∧ t.lat = false := by simp
  unblanked : 7 ≤ t.phase.toNat → t.blank = false := by simp
  running : t.phase = Phase.advance → t.tEn = true ∧ t.tReload = n ∧ 1 ≤ t.tCount ∧ t.tCount ≤ n := by simp
  trace : ∃ w, t.trace = s₀.trace ++ w ∧ pinEvents w = eventsAt v (cursorWords s₀) t.phase t.colCnt.toNat ∧
    (t.phase = Phase.advance → tickCount w = 0 → t.tCount = n ∧ t.tPend = false)

/-- A tick inside an invocation changes the trace and, from `TRELOAD` on, the count. -/
theorem Midway.of_tick {s₀ t : State} {v n : Nat} (h : Midway s₀ v n t) : Midway s₀ v n (tick t) where
  legal := h.legal
  kept := h.kept.trans ⟨rfl, rfl, rfl, rfl, rfl, rfl, rfl, rfl, rfl, rfl, rfl⟩
  stopped := h.stopped
  acknowledged hp := by
    have he : t.tEn = false := h.stopped ⟨Nat.le_of_succ_le hp.1, hp.2⟩
    simp [expires, he, h.acknowledged hp]
  selected := h.selected
  unshifted := h.unshifted
  shifting := h.shifting
  shifted := h.shifted
  latched := h.latched
  unblanked := h.unblanked
  running hp := by
    obtain ⟨he, hr, h1, hn⟩ := h.running hp
    by_cases hc : t.tCount ≤ 1
    · rw [tick_of_expires he hc]
      have hpos : 1 ≤ t.tReload := by omega
      exact ⟨he, hr, hpos, Nat.le_of_eq hr⟩
    · rw [tick_of_counting he (by omega)]
      refine ⟨he, hr, ?_, ?_⟩ <;> simp only <;> omega
  trace := by
    obtain ⟨w, hw, hev, -⟩ := h.trace
    refine ⟨w ++ [.tick], by simp [hw], ?_, fun _ h0 => ?_⟩
    · simpa using hev
    · simp at h0

/-- A column counter short of 31 counts on without wrapping. -/
theorem colCnt_succ_mod {c : BitVec 5} (h : c ≠ 31) : (c.toNat + 1) % 32 = c.toNat + 1 := by
  have hne : c.toNat ≠ 31 := fun h' => h (BitVec.eq_of_toNat_eq h')
  exact Nat.mod_eq_of_lt (by omega)

section Operations

variable {s₀ s : State} {v n : Nat} (h : Midway s₀ v n s)
include h

theorem Midway.tstop (hp : s.phase = Phase.tstop) : Midway s₀ v n { s with tEn := false, phase := Phase.tack } := by
  obtain ⟨w, hw, hev, -⟩ := h.trace
  exact {
    kept := h.kept.trans ⟨rfl, rfl, rfl, rfl, rfl, rfl, rfl, rfl, rfl, rfl, rfl⟩
    unshifted := fun _ => h.unshifted (by simp [hp])
    trace := ⟨w, hw, by simpa [hp, eventsAt] using hev, by simp⟩ }

theorem Midway.tack (hp : s.phase = Phase.tack) : Midway s₀ v n { s with tPend := false, phase := Phase.rowsel } := by
  obtain ⟨w, hw, hev, -⟩ := h.trace
  exact {
    kept := h.kept.trans ⟨rfl, rfl, rfl, rfl, rfl, rfl, rfl, rfl, rfl, rfl, rfl⟩
    stopped := fun _ => h.stopped (by simp [hp])
    unshifted := fun _ => h.unshifted (by simp [hp])
    trace := ⟨w, hw, by simpa [hp, eventsAt] using hev, by simp⟩ }

theorem Midway.rowsel (hp : s.phase = Phase.rowsel) :
    Midway s₀ v n { emit (.sel v) (emit (.blank true) s) with colCnt := 0, phase := Phase.shift } := by
  obtain ⟨w, hw, hev, -⟩ := h.trace
  exact {
    kept := h.kept.trans ⟨rfl, rfl, rfl, rfl, rfl, rfl, rfl, rfl, rfl, rfl, rfl⟩
    stopped := fun _ => h.stopped (by simp [hp])
    acknowledged := fun _ => h.acknowledged (by simp [hp])
    shifting := fun _ => by simpa using h.unshifted (by simp [hp])
    trace := ⟨w ++ [.pin (.blank true), .pin (.sel v)], by simp [hw], by simp [hev, hp, eventsAt, columnEvents], by simp⟩ }

theorem Midway.cursorWord_eq (c : Nat) : cursorWord s c = cursorWord s₀ c := by
  rw [cursorWord, cursorWord, h.kept.fb, h.kept.rowPair, h.kept.bitPlane]

/-- One column: shifted in, put out as data and clock; the last one ends the loop. -/
theorem Midway.shift (hp : s.phase = Phase.shift) (hsr : s₀.pSr.length = 32) :
    Midway s₀ v n { emit .sck (emit (.data (cursorWord s s.colCnt.toNat)) s) with
      colCnt := if lastColumn s then 0 else s.colCnt + 1
      phase := if lastColumn s then Phase.latch else Phase.shift } := by
  obtain ⟨w, hw, hev, -⟩ := h.trace
  have hlt : s.colCnt.toNat < 32 := s.colCnt.isLt
  have htake := cursorWords_take_succ s₀ hlt
  have hin : s.pSr.tail ++ [_] = _ := (h.shifting hp) ▸ shift_in hsr hlt htake
  rw [h.cursorWord_eq]
  by_cases hl : s.colCnt = 31
  · have hlast : lastColumn s = true := by simp [lastColumn, hl]
    have hc : s.colCnt.toNat = 31 := by simp [hl]
    have hpast : s₀.pSr.drop 32 = [] := List.drop_of_length_le (Nat.le_of_eq hsr)
    have hfull : (cursorWords s₀).take 32 = cursorWords s₀ := List.take_of_length_le (Nat.le_of_eq (length_cursorWords s₀))
    rw [hc, hfull] at htake
    have hcols := (congrArg columnEvents htake).trans (columnEvents_append_one _ _)
    rw [hc, hpast, hfull, List.nil_append] at hin
    rw [hc]
    simp only [hlast, if_true]
    exact {
      kept := h.kept.trans ⟨rfl, rfl, rfl, rfl, rfl, rfl, rfl, rfl, rfl, rfl, rfl⟩
      stopped := fun _ => h.stopped (by simp [hp])
      acknowledged := fun _ => h.acknowledged (by simp [hp])
      selected := fun _ => h.selected (by simp [hp])
      shifted := fun _ => ⟨rfl, hin, rfl, rfl⟩
      trace := ⟨w ++ [.pin (.data (cursorWord s₀ 31)), .pin .sck], by simp [hw],
        by simp [hev, hp, hc, eventsAt, hcols], by simp⟩ }
  · have hlast : lastColumn s = false := by simpa [lastColumn] using hl
    have hmod := colCnt_succ_mod hl
    have hc : (s.colCnt + 1).toNat = s.colCnt.toNat + 1 := (BitVec.toNat_add _ _).trans hmod
    simp only [hlast, Bool.false_eq_true, if_false]
    exact {
      kept := h.kept.trans ⟨rfl, rfl, rfl, rfl, rfl, rfl, rfl, rfl, rfl, rfl, rfl⟩
      stopped := fun _ => h.stopped (by simp [hp])
      acknowledged := fun _ => h.acknowledged (by simp [hp])
      selected := fun _ => h.selected (by simp [hp])
      shifting := fun _ => hin.trans (by rw [hc])
      trace := ⟨w ++ [.pin (.data (cursorWord s₀ s.colCnt.toNat)), .pin .sck], by simp [hw],
        by simp [hev, hp, eventsAt, hmod, htake, columnEvents_append_one], by simp⟩ }

theorem Midway.latch (hp : s.phase = Phase.latch) : Midway s₀ v n { emit .lat s with phase := Phase.unblank } := by
  obtain ⟨w, hw, hev, -⟩ := h.trace
  exact {
    kept := h.kept.trans ⟨rfl, rfl, rfl, rfl, rfl, rfl, rfl, rfl, rfl, rfl, rfl⟩
    stopped := fun _ => h.stopped (by simp [hp])
    acknowledged := fun _ => h.acknowledged (by simp [hp])
    selected := fun _ => h.selected (by simp [hp])
    shifted := fun _ => h.shifted (by simp [hp])
    latched := fun _ => ⟨(h.shifted (by simp [hp])).2.1, rfl⟩
    trace := ⟨w ++ [.pin .lat], by simp [hw], by simp [hev, hp, eventsAt], by simp⟩ }

theorem Midway.unblank (hp : s.phase = Phase.unblank) :
    Midway s₀ v n { emit (.blank false) s with phase := Phase.treload } := by
  obtain ⟨w, hw, hev, -⟩ := h.trace
  exact {
    kept := h.kept.trans ⟨rfl, rfl, rfl, rfl, rfl, rfl, rfl, rfl, rfl, rfl, rfl⟩
    stopped := fun _ => h.stopped (by simp [hp])
    acknowledged := fun _ => h.acknowledged (by simp [hp])
    selected := fun _ => h.selected (by simp [hp])
    shifted := fun _ => h.shifted (by simp [hp])
    latched := fun _ => h.latched (by simp [hp])
    trace := ⟨w ++ [.pin (.blank false)], by simp [hw], by simp [hev, hp, eventsAt, invocationEvents_eq], by simp⟩ }

theorem Midway.treload (hp : s.phase = Phase.treload) (hn : 1 ≤ n) :
    Midway s₀ v n { loadTimer n s with tEn := true, phase := Phase.advance } := by
  obtain ⟨w, hw, hev, -⟩ := h.trace
  have hack := h.acknowledged (by simp [hp])
  exact {
    kept := h.kept.trans ⟨rfl, rfl, rfl, rfl, rfl, rfl, rfl, rfl, rfl, rfl, rfl⟩
    selected := fun _ => h.selected (by simp [hp])
    shifted := fun _ => h.shifted (by simp [hp])
    latched := fun _ => h.latched (by simp [hp])
    unblanked := fun _ => h.unblanked (by simp [hp])
    running := fun _ => ⟨rfl, rfl, hn, le_rfl⟩
    trace := ⟨w, hw, by simpa [hp, eventsAt] using hev, fun _ _ => ⟨rfl, hack⟩⟩ }

end Operations

/-- One engine operation on, short of `ADVANCE`. -/
theorem Midway.engine {s₀ s t : State} {v n : Nat} {i : Instr} (h : Midway s₀ v n s) (hsr : s₀.pSr.length = 32)
    (hv : s₀.cfg.rowSelect s₀.rowPair.toNat = some v) (hn : s₀.cfg.bcm s₀.bitPlane.toNat = some n) (hpos : 1 ≤ n)
    (ha : s.phase ≠ Phase.advance) (hd : decodePhase s.phase = some i) (hx : exec i s = .next t) : Midway s₀ v n t := by
  rcases engine_cases hd hx with ⟨hp, -⟩ | ⟨hp, rfl⟩ | ⟨hp, rfl⟩ | ⟨hp, v', hv', rfl⟩ | ⟨hp, rfl⟩ | ⟨hp, rfl⟩ | ⟨hp, rfl⟩ |
    ⟨hp, n', hn', rfl⟩ | ⟨hp, -⟩
  · have hlegal := h.legal
    simp [hp] at hlegal
  · exact h.tstop hp
  · exact h.tack hp
  · rw [h.kept.cfg, h.kept.rowPair, hv] at hv'
    obtain rfl := Option.some.inj hv'
    exact h.rowsel hp
  · exact h.shift hp hsr
  · exact h.latch hp
  · exact h.unblank hp
  · rw [h.kept.cfg, h.kept.bitPlane, hn] at hn'
    obtain rfl := Option.some.inj hn'
    exact h.treload hp hpos
  · exact absurd hp ha

/-- The engine steps of an invocation number themselves, and make no tick. -/
theorem stage_of_engine {s t : State} {i : Instr} (ha : s.phase ≠ Phase.advance) (hd : decodePhase s.phase = some i)
    (hx : exec i s = .next t) :
    stage t = stage s + 1 ∧ tickCount t.trace = tickCount s.trace ∧ t.sched = s.sched ∧ t.draws = s.draws := by
  rcases engine_cases hd hx with ⟨hp, -, -, rfl⟩ | ⟨hp, rfl⟩ | ⟨hp, rfl⟩ | ⟨hp, v, -, rfl⟩ | ⟨hp, rfl⟩ | ⟨hp, rfl⟩ |
    ⟨hp, rfl⟩ | ⟨hp, n, -, rfl⟩ | ⟨hp, -⟩
  case inr.inr.inr.inr.inl =>
    by_cases hl : s.colCnt = 31
    · simp [stage, hp, lastColumn, hl]
    · simp [stage, hp, lastColumn, show ¬ s.colCnt = 31#5 from hl, colCnt_succ_mod hl]
      omega
  case inr.inr.inr.inr.inr.inr.inr.inr => exact absurd hp ha
  all_goals simp [stage, hp]

/-- `ENTRY` begins an invocation. -/
theorem Midway.start {s u : State} {v n : Nat} (hs : Undisturbed s u) (hsr : u.pSr = s.pSr)
    (htrace : u.trace = s.trace) : Midway s v n (takeDisplayInterrupt u) where
  kept := hs.trans ⟨rfl, rfl, rfl, rfl, rfl, rfl, rfl, rfl, rfl, rfl, rfl⟩
  unshifted _ := hsr
  trace := ⟨[], by simp [htrace], rfl, by simp⟩

/-- `ADVANCE` ends it: what an invocation leaves, up to what ticks inside it did. -/
theorem Midway.finish {s₀ s : State} {v n : Nat} (h : Midway s₀ v n s) (hidle : s₀.phase = Phase.idle)
    (hp : s.phase = Phase.advance) :
    returnToHost (advanceCursor s) =
      { afterInvocation v n s₀ with
        trace := s.trace, tCount := s.tCount, tPend := s.tPend, sched := s.sched, draws := s.draws } := by
  obtain ⟨hcfg, hfb, hrow, hplane, hcolor, hvalid, hinit, hcmd, hidx, hchan, hport⟩ := h.kept
  obtain ⟨hc, hsr, hd, hsck⟩ := h.shifted (by simp [hp])
  obtain ⟨hlatch, hlat⟩ := h.latched (by simp [hp])
  obtain ⟨hen, hre, -⟩ := h.running hp
  have hl : lastPlane s = lastPlane s₀ := by rw [lastPlane, lastPlane, hplane, hcfg]
  simp only [returnToHost, advanceCursor, afterInvocation, hl, hcfg, hfb, hrow, hplane, hcolor, hvalid, hinit, hcmd, hidx, hchan,
    hport, hc, hsr, hd, hsck, hlatch, hlat, hen, hre, h.selected (by simp [hp]), h.unblanked (by simp [hp]), hidle,
    cursorWords, cursorWord]

/-! ## The invocation as a run -/

/-- Any choice but the engine's, inside an invocation, is a tick. -/
theorem step_of_other {s : State} {a : Agent} {tl : List Agent} (hwf : s.cfg.Wf) (hs : s.sched = a :: tl) (ha : a ≠ .engine)
    (hp : s.phase ≠ Phase.idle) : step s = .next (tick (consumeChoice s)) := by
  refine step_of_timer hwf ?_
  rcases nextAgent_enabled s with h | ⟨h, -⟩ | ⟨-, -, h⟩
  · exact h
  · exact absurd h (nextAgent_ne_host hp)
  · simp [chosenAgent, hs, ha] at h

theorem Midway.phase_ne_idle {s₀ s : State} {v n : Nat} (h : Midway s₀ v n s) : s.phase ≠ Phase.idle := by
  intro hp
  have hlegal := h.legal
  simp [hp] at hlegal

theorem Midway.of_consumeChoice {s₀ s : State} {v n : Nat} (h : Midway s₀ v n s) : Midway s₀ v n (consumeChoice s) :=
  { h with kept := h.kept.trans (undisturbed_consumeChoice s) }

/-- The phases before `ADVANCE` are the stages before the 39th. -/
theorem Midway.stage_eq_iff {s₀ s : State} {v n : Nat} (h : Midway s₀ v n s) : stage s = 39 ↔ s.phase = Phase.advance := by
  obtain ⟨h1, h8⟩ := h.legal
  have hcol : s.colCnt.toNat < 32 := s.colCnt.isLt
  rcases phase_cases s.phase h8 with hp | hp | hp | hp | hp | hp | hp | hp | hp <;> simp [stage, hp]
  omega

/-- The engine, chosen inside an invocation, makes its next step. -/
theorem Midway.step_engine {s₀ s : State} {v n : Nat} {tl : List Agent} (h : Midway s₀ v n s) (hwf : s₀.cfg.Wf)
    (hn : s₀.cfg.bcm s₀.bitPlane.toNat = some n) (hs : s.sched = .engine :: tl) :
    ∃ i t, decodePhase s.phase = some i ∧ exec i (consumeChoice s) = .next t ∧ step s = .next t := by
  obtain ⟨-, hlen, -⟩ := wf_clauses hwf
  have hb : s.bitPlane.toNat < s.cfg.bitDepth := by
    rw [h.kept.bitPlane, h.kept.cfg, ← hlen]
    exact (List.getElem?_eq_some_iff.mp hn).1
  exact step_next_of_engine (h.kept.cfg ▸ hwf) hb h.legal.2 (by simp [chosenAgent, hs])
    ((engineEnabled_iff s).mpr (.inl h.phase_ne_idle))

/-- From inside an invocation, whoever is chosen until the engine has been chosen often enough. -/
theorem Midway.reaches {s₀ : State} {v n : Nat} (hwf : s₀.cfg.Wf) (hsr : s₀.pSr.length = 32)
    (hv : s₀.cfg.rowSelect s₀.rowPair.toNat = some v) (hn : s₀.cfg.bcm s₀.bitPlane.toNat = some n)
    (hidle : s₀.phase = Phase.idle) {tl : List Agent} :
    ∀ (mid : List Agent) (s : State),
    Midway s₀ v n s → s.sched = mid ++ .engine :: tl → s.draws = s₀.draws → stage s + mid.count .engine = 39 →
    ∃ u, Midway s₀ v n u ∧ u.phase = Phase.advance ∧ tickCount u.trace + mid.count .engine = tickCount s.trace + mid.length ∧
      Reaches (mid.length + 1) s
        { afterInvocation v n s₀ with trace := u.trace, tCount := u.tCount, tPend := u.tPend, sched := tl } := by
  have hpos := (bcm_range hwf hn).1
  intro mid
  induction mid with
  | nil =>
    intro s h hs hdr hst
    have hp := h.stage_eq_iff.mp hst
    have hu := h.of_consumeChoice
    obtain ⟨i, t, hd, hx, hstep⟩ := h.step_engine hwf hn hs
    refine ⟨consumeChoice s, hu, hp, rfl, .of_step hstep ?_⟩
    obtain rfl : i = .advance := by simpa [hp, decodePhase, phaseRows, eq_comm] using hd
    obtain ⟨-, rfl⟩ := execAdvance_next hx
    rw [hu.finish hidle hp]
    simp [hs, hdr]
    rfl
  | cons a mid ih =>
    intro s h hs hdr hst
    by_cases ha : a = .engine
    · subst ha
      have hp : s.phase ≠ Phase.advance := by
        refine mt h.stage_eq_iff.mpr fun h39 => ?_
        rw [h39, List.count_cons_self] at hst
        omega
      obtain ⟨i, t, hd, hx, hstep⟩ := h.step_engine hwf hn hs
      have ht := (h.of_consumeChoice).engine hsr hv hn hpos hp hd hx
      obtain ⟨hstage, hticks, hsched, hdraws⟩ := stage_of_engine (s := consumeChoice s) hp hd hx
      have hstage' : stage t = stage s + 1 := hstage
      rw [List.count_cons_self] at hst ⊢
      obtain ⟨u, hu, hpu, hcount, hreach⟩ := ih t ht (by simp [hsched, hs]) (by simp [hdraws, hs, hdr]) (by omega)
      refine ⟨u, hu, hpu, ?_, .of_step hstep hreach⟩
      rw [hticks, consumeChoice_trace] at hcount
      rw [List.length_cons]
      omega
    · have hstep := step_of_other (h.kept.cfg ▸ hwf) hs ha h.phase_ne_idle
      have hcount' : (a :: mid).count .engine = mid.count .engine := List.count_cons_of_ne ha
      rw [hcount'] at hst ⊢
      obtain ⟨u, hu, hpu, hcount, hreach⟩ := ih (tick (consumeChoice s)) h.of_consumeChoice.of_tick (by simp [hs])
        (by simp [hs, hdr]) hst
      refine ⟨u, hu, hpu, ?_, .of_step hstep hreach⟩
      simp at hcount ⊢
      omega

/-- An invocation from its pending entry on, with anyone chosen in between. -/
theorem invocation_reaches {s : State} {v n : Nat} {mid tl : List Agent} (hwf : s.cfg.Wf) (hp : s.phase = Phase.idle)
    (hpend : s.tPend = true) (hi : s.initDone = true) (hsr : s.pSr.length = 32)
    (hv : s.cfg.rowSelect s.rowPair.toNat = some v) (hn : s.cfg.bcm s.bitPlane.toNat = some n)
    (hmid : mid.count .engine = 38) (hs : s.sched = .engine :: (mid ++ .engine :: tl)) :
    ∃ u, Midway s v n u ∧ u.phase = Phase.advance ∧ tickCount u.trace + 38 = tickCount s.trace + mid.length ∧
      Reaches (mid.length + 2) s
        { afterInvocation v n s with trace := u.trace, tCount := u.tCount, tPend := u.tPend, sched := tl } := by
  have he : entryEnabled s = true := (entryEnabled_iff s).mpr ⟨hp, hpend, hi⟩
  have hstep : step s = .next (takeDisplayInterrupt (consumeChoice s)) :=
    (step_of_engine hwf (by simp [chosenAgent, hs]) (by simp [engineEnabled, he]) (hp ▸ rfl)).trans (exec_entry he)
  have hstart := Midway.start (v := v) (n := n) (undisturbed_consumeChoice s) rfl rfl
  obtain ⟨u, hu, hpu, hcount, hreach⟩ := hstart.reaches
    (tl := tl) hwf hsr hv hn hp mid (takeDisplayInterrupt (consumeChoice s)) (by simp [hs]) (by simp [hs]) (by simp [stage, hmid])
  rw [hmid] at hcount
  exact ⟨u, hu, hpu, hcount, .of_step hstep hreach⟩

/-- The trace of an invocation that has come to `ADVANCE`. -/
theorem Midway.pinEvents_trace {s₀ s : State} {v n : Nat} (h : Midway s₀ v n s) (hp : s.phase = Phase.advance) :
    pinEvents s.trace = pinEvents s₀.trace ++ invocationEvents v (cursorWords s₀) := by
  obtain ⟨w, hw, hev, -⟩ := h.trace
  rw [hw, pinEvents_append, hev]
  simp [eventsAt, hp]

/-- Settles O48: a tick inside an invocation touches nothing an engine operation reads or the result mentions. -/
theorem invocationIsTheSameUnderAnyInterleaving : Obligations.InvocationIsTheSameUnderAnyInterleaving := by
  intro s v n mid tl hwf hp hpend hi hsr hv hn hmid hs
  obtain ⟨u, hu, hpu, hcount, hreach⟩ := invocation_reaches hwf hp hpend hi hsr hv hn hmid hs
  obtain ⟨-, -, h1, hle⟩ := hu.running hpu
  exact ⟨_, hreach, rfl, hu.pinEvents_trace hpu, hcount, h1, hle⟩

/-- Settles O47: with the engine chosen 40 times no tick falls between, so the trace grows by the pin events alone and the
timer stands as `TRELOAD` left it. -/
theorem invocationIsOneBigStep : Obligations.InvocationIsOneBigStep := by
  intro s v n hwf hp hpend hi hsr hv hn
  refine ⟨?_, by simp [invocationEvents, rowWords, Function.comp_def]⟩
  obtain ⟨u, hu, hpu, hcount, hreach⟩ := invocation_reaches (s := engineTurn 40 s) (mid := List.replicate 38 .engine)
    (tl := s.sched) hwf hp hpend hi hsr hv hn (List.count_replicate_self) rfl
  obtain ⟨w, hw, hev, hquiet⟩ := hu.trace
  have hnone : tickCount w = 0 := by
    rw [hw, tickCount_append] at hcount
    simp at hcount
    exact hcount
  obtain ⟨hc, hpd⟩ := hquiet hpu hnone
  have hpins : w = (invocationEvents v (cursorWords s)).map .pin := by
    rw [eq_pins_of_no_tick hnone, hev]
    simp [eventsAt, hpu]
    rfl
  rw [hw, hc, hpd, hpins] at hreach
  exact hreach

/-! ## The panel after an invocation (R165, R208) -/

/-- An injective map selects a pair's code for that pair alone. -/
theorem map_eq_code_iff {l : List Nat} (hl : l.Nodup) {p q v : Nat} (hp : l[p]? = some v) : l[q]? = some v ↔ q = p := by
  constructor
  · intro hq
    exact (List.getElem?_inj (List.getElem?_eq_some_iff.mp hq).1 hl).mp (hq.trans hp.symm)
  · rintro rfl
    exact hp

/-- The LED of a channel, on a panel that shows the words of a row-pair and plane under code `v`. -/
theorem lit_of_rowWords {s : State} {m : Memory} {p k v : Nat} (hb : s.blank = false) (hsel : s.sel = v)
    (hl : s.pLatch = rowWords m p k) (wiring : List Nat) {row col : Nat} (hr : row < 32) (hc : col < 32) (ch : Channel) :
    lit wiring s row col ch =
      (decide (wiring[row % 16]? = some v) &&
        (channelOf (readCell m (if row < 16 then p else p + 16) col) ch).getLsbD k) := by
  have hword : s.pLatch.getD col 0 = colWord m p k col := by simp [hl, rowWords, hc]
  obtain ⟨hup, hlow⟩ := colWord_getLsbD m p k col ch
  rw [lit_eq hb wiring hr hc, hsel, hword, latchBit]
  split
  · rw [hup]
  · rw [hlow]

/-- The same on a panel wired as an injective map says: the pair's own two rows show their plane. -/
theorem lit_of_rowWords_of_nodup {s : State} {l : List Nat} {m : Memory} {p k : Nat} (hnd : l.Nodup) (hb : s.blank = false)
    (hsel : l[p]? = some s.sel) (hl : s.pLatch = rowWords m p k) {row col : Nat} (hr : row < 32) (hc : col < 32)
    (ch : Channel) :
    lit l s row col ch = (decide (row % 16 = p) && (channelOf (readCell m row col) ch).getLsbD k) := by
  rw [lit_of_rowWords hb rfl hl l hr hc ch]
  by_cases hrow : row % 16 = p
  · have hcell : (if row < 16 then p else p + 16) = row := by split <;> omega
    rw [hcell, decide_eq_true hrow, decide_eq_true ((map_eq_code_iff hnd hsel).mpr hrow)]
  · rw [decide_eq_false hrow, decide_eq_false (mt (map_eq_code_iff hnd hsel).mp hrow), Bool.false_and, Bool.false_and]

/-- Settles O49: the latched words are the pair's, and `SEL` its code, which an injective map gives to no other pair. -/
theorem panelShowsThePlaneOfTheRowPair : Obligations.PanelShowsThePlaneOfTheRowPair := by
  intro s v n hwf hp hpend hi hsr hv hn
  obtain ⟨hreach, -⟩ := invocationIsOneBigStep s v n hwf hp hpend hi hsr hv hn
  exact ⟨_, hreach, fun wiring _ _ ch hr hc => lit_of_rowWords rfl rfl rfl wiring hr hc ch,
    fun hnd _ _ ch hr hc => lit_of_rowWords_of_nodup hnd rfl hv rfl hr hc ch⟩

end Sys2Proof.Machine

/-! PROOFS. What holds along every run: the cursor's order, the time between two invocations, and that the picture controls
nothing (spec/41_scanout_engine.md R163, R166, spec/60_exceptions.md R193, R202). -/

namespace Sys2Proof.Machine

/-! ## Time -/

/-- Time passes in ticks alone. -/
theorem tickCount_of_step {s t : State} (h : step s = .next t) :
    tickCount t.trace = tickCount s.trace + if nextAgent s = .timer then 1 else 0 := by
  rcases step_agent_cases h with ⟨ha, rfl⟩ | ⟨ha, i, hd, hx⟩ | ⟨ha, hh⟩
  · simp [ha]
  · rcases engine_cases (s := consumeChoice s) hd hx with ⟨-, -, -, rfl⟩ | ⟨-, rfl⟩ | ⟨-, rfl⟩ | ⟨-, v, -, rfl⟩ | ⟨-, rfl⟩ |
      ⟨-, rfl⟩ | ⟨-, rfl⟩ | ⟨-, v, -, rfl⟩ | ⟨-, rfl⟩ <;> simp [ha]
  · simp [ha, hh.panel.2.2]

theorem tickCount_le_of_step {s t : State} (h : step s = .next t) : tickCount s.trace ≤ tickCount t.trace := by
  rw [tickCount_of_step h]
  exact Nat.le_add_right _ _

/-- What every step keeps holds of every state reached. -/
theorem Reaches.induct {P : State → Prop} (hstep : ∀ s t, P s → step s = .next t → P t) :
    ∀ {n : Nat} {s t : State}, Reaches n s t → P s → P t := by
  intro n
  induction n with
  | zero =>
    intro s t h hs
    obtain rfl : s = t := Host.Outcome.next.inj h
    exact hs
  | succ n ih =>
    intro s t h hs
    cases hu : step s with
    | next u => exact ih ((run_succ (M := Sys2Proof.core) hu n).symm.trans h) (hstep s u hs hu)
    | fault r => simp [Reaches, Host.Core.run, show Sys2Proof.core.step s = _ from hu] at h
    | refused r => simp [Reaches, Host.Core.run, show Sys2Proof.core.step s = _ from hu] at h

/-! ## A plane's time on the panel (R166) -/

/-- `t` shows what `s₀` showed, and its timer runs to `deadline`, before the next invocation. -/
structure Showing (s₀ : State) (deadline : Nat) (t : State) : Prop where
  phase : t.phase = Phase.advance ∨ t.phase = Phase.idle
  running : t.initDone = true ∧ t.tEn = true
  pending : t.tPend = false
  count : tickCount t.trace + t.tCount = deadline
  panel : t.blank = s₀.blank ∧ t.pLatch = s₀.pLatch ∧ t.sel = s₀.sel ∧ pinEvents t.trace = pinEvents s₀.trace

theorem Showing.of_step {s₀ s t : State} {deadline : Nat} (h : Showing s₀ deadline s) (hstep : step s = .next t)
    (ht : tickCount t.trace < deadline) : Showing s₀ deadline t := by
  obtain ⟨hp, ⟨hi, he⟩, hpend, hcount, hpanel⟩ := h
  rcases step_agent_cases hstep with ⟨-, rfl⟩ | ⟨-, i, hd, hx⟩ | ⟨-, hh⟩
  · have hticks : tickCount (s.trace ++ [.tick]) < deadline := ht
    rw [tickCount_append, tickCount_cons_tick, tickCount_nil] at hticks
    have hc : 2 ≤ s.tCount := by omega
    rw [tick_of_counting (s := consumeChoice s) he hc]
    refine ⟨hp, ⟨hi, he⟩, hpend, ?_, by simpa using hpanel⟩
    simp
    omega
  · rcases hp with hp | hp
    · rw [hp] at hd
      obtain rfl : i = .advance := by simpa [decodePhase, phaseRows, eq_comm] using hd
      obtain ⟨-, rfl⟩ := execAdvance_next hx
      exact ⟨.inr rfl, ⟨hi, he⟩, hpend, hcount, hpanel⟩
    · rw [hp] at hd
      obtain rfl : i = .entry := by simpa [decodePhase, phaseRows, eq_comm] using hd
      obtain ⟨hen, -⟩ := execEntry_next hx
      simp [entryEnabled_iff, hpend] at hen
  · obtain ⟨hinit, -, ⟨hsel, hblank, -⟩, ⟨-, hcnt, hpd⟩, hen⟩ := hh.kept hi
    obtain ⟨-, hlatch, htrace⟩ := hh.panel
    refine ⟨.inr hh.phase.2, ⟨hinit.trans hi, hen he⟩, hpd.trans hpend, ?_, ?_⟩
    · rwa [htrace, hcnt]
    · rwa [hblank, hlatch, hsel, htrace]

/-- Settles O57: up to the deadline only `ADVANCE` is left to the engine, and `ENTRY` waits for the expiry. -/
theorem planeStaysVisibleForItsDuration : Obligations.PlaneStaysVisibleForItsDuration := by
  intro r s t v n hwf hi hb hpend hx hv hreach ht
  obtain ⟨-, v', hv', hs⟩ := execTreload_next hx
  obtain rfl : v = v' := Option.some.inj (hv.symm.trans hv')
  have hstart : Showing s (tickCount s.trace + v) s :=
    ⟨.inl (by rw [hs]), ⟨hi, by rw [hs]⟩, hpend, by rw [hs]; rfl, ⟨rfl, rfl, rfl, rfl⟩⟩
  have hend := hreach.induct (P := fun u => tickCount u.trace < tickCount s.trace + v → Showing s (tickCount s.trace + v) u)
    (fun a b ha hstep hlt => (ha (Nat.lt_of_le_of_lt (tickCount_le_of_step hstep) hlt)).of_step hstep hlt) (fun _ => hstart) ht
  obtain ⟨hblank, hlatch, hsel, hpins⟩ := hend.panel
  exact ⟨hblank.trans hb, hend.pending, hlatch, hsel, hpins⟩

/-! ## The expiry reaches the engine (R193, R202) -/

/-- `t` waits in `IDLE` for the count to reach `deadline`, or for the engine after it did. -/
structure Waiting (deadline : Nat) (t : State) : Prop where
  phase : t.phase = Phase.idle
  running : t.initDone = true ∧ t.tEn = true
  count : (t.tPend = false ∧ 1 ≤ t.tCount ∧ tickCount t.trace + t.tCount = deadline) ∨
    (t.tPend = true ∧ deadline ≤ tickCount t.trace)

theorem Waiting.of_step {s t : State} {deadline : Nat} (h : Waiting deadline s) (hstep : step s = .next t)
    (ha : nextAgent s ≠ .engine) : Waiting deadline t := by
  obtain ⟨hp, ⟨hi, he⟩, hcount⟩ := h
  rcases step_agent_cases hstep with ⟨-, rfl⟩ | ⟨ha', -⟩ | ⟨-, hh⟩
  · refine ⟨hp, ⟨hi, he⟩, ?_⟩
    rcases hcount with ⟨hpd, h1, hc⟩ | ⟨hpd, hc⟩
    · by_cases hlast : s.tCount ≤ 1
      · rw [tick_of_expires (s := consumeChoice s) he hlast]
        exact .inr ⟨rfl, by simp; omega⟩
      · rw [tick_of_counting (s := consumeChoice s) he (by simp; omega)]
        exact .inl ⟨hpd, by simp; omega, by simp; omega⟩
    · exact .inr ⟨by simp [hpd], by simp; omega⟩
  · exact absurd ha' ha
  · obtain ⟨hinit, -, -, ⟨-, hcnt, hpd⟩, hen⟩ := hh.kept hi
    obtain ⟨-, -, htrace⟩ := hh.panel
    refine ⟨hh.phase.2, ⟨hinit.trans hi, hen he⟩, ?_⟩
    rwa [hpd, hcnt, htrace]

/-- Settles O58. -/
theorem expiryReachesTheEngine : Obligations.ExpiryReachesTheEngine := by
  intro σ n hrun ha hp hi he hpd hc
  obtain ⟨hp', ⟨hi', -⟩, hcount⟩ := hrun.induct (P := fun m => Waiting (tickCount (σ 0).trace + (σ 0).tCount) (σ m))
    ⟨hp, ⟨hi, he⟩, .inl ⟨hpd, hc, rfl⟩⟩ (fun m hm hw hstep => hw.of_step hstep (ha m hm)) n le_rfl
  refine ⟨?_, fun h => (entryEnabled_iff _).mpr ⟨hp', h, hi'⟩⟩
  rcases hcount with ⟨h0, h1, hcnt⟩ | ⟨h1, hle⟩
  · simp only [h0, Bool.false_eq_true, false_iff]
    omega
  · simp only [h1, hle]

/-! ## The cursor's order (R163) -/

/-- The cursor where `k` completed invocations leave it, at depth `b`. -/
structure CursorAt (b k : Nat) (s : State) : Prop where
  row : s.rowPair.toNat = k / b % 16
  plane : s.bitPlane.toNat = k % b

/-- `ADVANCE` is the order's next place. -/
theorem CursorAt.advance {s : State} {k : Nat} (hwf : s.cfg.Wf) (h : CursorAt s.cfg.bitDepth k s) :
    CursorAt s.cfg.bitDepth (k + 1) (returnToHost (advanceCursor s)) := by
  obtain ⟨⟨hpos, hdepth⟩, -⟩ := wf_clauses hwf
  obtain ⟨hrow, hplane⟩ := h
  have hk := Nat.mod_add_div k s.cfg.bitDepth
  have hlt := Nat.mod_lt k hpos
  by_cases hl : s.bitPlane.toNat + 1 = s.cfg.bitDepth
  · obtain ⟨hdiv, hmod⟩ : (k + 1) / s.cfg.bitDepth = k / s.cfg.bitDepth + 1 ∧ (k + 1) % s.cfg.bitDepth = 0 := by
      rw [Nat.div_mod_unique hpos, Nat.mul_add_one]
      omega
    exact ⟨by simp [lastPlane_of_eq hl, hrow, hdiv], by simp [lastPlane_of_eq hl, hmod]⟩
  · obtain ⟨hdiv, hmod⟩ :
        (k + 1) / s.cfg.bitDepth = k / s.cfg.bitDepth ∧ (k + 1) % s.cfg.bitDepth = k % s.cfg.bitDepth + 1 := by
      rw [Nat.div_mod_unique hpos]
      omega
    have hlast := lastPlane_of_lt (s := s) (by omega)
    have hroom : k % s.cfg.bitDepth + 1 < 2 ^ 3 := by omega
    exact ⟨by simp [hlast, hrow, hdiv], by simpa [hlast, hplane, hmod] using Nat.mod_eq_of_lt hroom⟩

/-- A step moves the cursor one place on when it is the engine's `ADVANCE`, and else leaves it. -/
theorem CursorAt.of_step {s t : State} {k : Nat} (h : CursorAt s.cfg.bitDepth k s) (hi : s.initDone = true)
    (hstep : step s = .next t) : CursorAt s.cfg.bitDepth (k + engineStepIn Phase.advance s) t := by
  by_cases ha : nextAgent s = .engine ∧ s.phase = Phase.advance
  · obtain ⟨hwf, -⟩ := step_cases hstep
    rw [engineStepIn, if_pos ha]
    rcases step_agent_cases hstep with ⟨hb, -⟩ | ⟨-, i, hd, hx⟩ | ⟨hb, -⟩
    · simp [ha.1] at hb
    · rw [ha.2] at hd
      obtain rfl : i = .advance := by simpa [decodePhase, phaseRows, eq_comm] using hd
      obtain ⟨-, rfl⟩ := execAdvance_next hx
      exact CursorAt.advance (s := consumeChoice s) hwf ⟨h.row, h.plane⟩
    · simp [ha.1] at hb
  · obtain ⟨hr, hb⟩ : t.rowPair = s.rowPair ∧ t.bitPlane = s.bitPlane := by
      by_contra hne
      rcases onlyAdvanceAndInitDisplayWriteTheCursor s t hstep (by tauto) with hadv | ⟨h0, -⟩
      · exact ha hadv
      · simp [hi] at h0
    rw [engineStepIn, if_neg ha, Nat.add_zero]
    exact ⟨hr ▸ h.row, hb ▸ h.plane⟩

/-- Set up, and the cursor, along a run. -/
theorem RunUpTo.cursorAt {σ : Nat → State} {n : Nat} (h : RunUpTo σ n) (hi : (σ 0).initDone = true)
    (hr : (σ 0).rowPair = 0) (hb : (σ 0).bitPlane = 0) : ∀ m, m ≤ n →
    (σ m).cfg = (σ 0).cfg ∧ (σ m).initDone = true ∧
      CursorAt (σ 0).cfg.bitDepth (engineSteps Phase.advance σ m) (σ m) := by
  refine h.induct ⟨rfl, hi, ?_⟩ fun m _ ⟨hcfg, hset, hcur⟩ hstep => ?_
  · constructor <;> simp [hr, hb]
  · obtain ⟨hcfg', hset', -⟩ := noStepUndoesSetUp _ _ hstep
    refine ⟨hcfg'.trans hcfg, hset' hset, ?_⟩
    rw [← hcfg] at hcur ⊢
    rw [engineSteps_succ_eq]
    exact hcur.of_step hset hstep

/-- Settles O50. -/
theorem cursorVisitsEveryPlaneInOrder : Obligations.CursorVisitsEveryPlaneInOrder := by
  intro σ n hrun hi hr hb
  obtain ⟨-, -, hrow, hplane⟩ := hrun.cursorAt hi hr hb n le_rfl
  exact ⟨hrow, hplane⟩

/-! ## The picture controls nothing (R163) -/

/-- An outcome less the picture. -/
def dropPicture : Out → Out
  | .next s => .next (withoutPicture s)
  | .fault r => .fault r
  | .refused r => .refused r

@[simp] theorem dropPicture_next (s : State) : dropPicture (.next s) = .next (withoutPicture s) := rfl

@[simp] theorem dropPicture_fault (r : Fault) : dropPicture (.fault r) = .fault r := rfl

@[simp] theorem dropPicture_refused (r : Refusal) : dropPicture (.refused r) = .refused r := rfl

theorem dropPicture_ite (p : Prop) [Decidable p] (a b : Out) :
    dropPicture (if p then a else b) = if p then dropPicture a else dropPicture b := apply_ite _ _ _ _

/-- `f` reads nothing of the picture but to make the next one. -/
def PictureBlind (f : State → Out) : Prop := ∀ s, dropPicture (f s) = dropPicture (f (withoutPicture s))

theorem pictureBlind_inPhase {p : BitVec 4} {op : Instr} {k : State → Out} (hk : PictureBlind k) :
    PictureBlind fun s => inPhase p op s (k s) := by
  intro s
  simp only [inPhase, dropPicture_ite, hk s]
  rfl

theorem pictureBlind_whenFree {cmd : Instr} {k : State → Out} (hk : PictureBlind k) :
    PictureBlind fun s => whenFree cmd s (k s) := by
  intro s
  simp only [whenFree, dropPicture_ite, hk s]
  rfl

theorem pictureBlind_afterInit {cmd : Instr} {k : State → Out} (hk : PictureBlind k) :
    PictureBlind fun s => afterInit cmd s (k s) := by
  refine pictureBlind_whenFree fun s => ?_
  simp only [dropPicture_ite, hk s]
  rfl

theorem pictureBlind_startColored (cmd : Instr) : PictureBlind (startColored cmd) := by
  intro s
  simp only [startColored, dropPicture_ite]
  rfl

theorem pictureBlind_tableRead {entry : State → Option Nat} {index : State → Nat} {k : State → Nat → Out}
    (he : ∀ s, entry (withoutPicture s) = entry s) (hi : ∀ s, index (withoutPicture s) = index s)
    (hk : ∀ v, PictureBlind fun s => k s v) : PictureBlind fun s => tableRead (entry s) (index s) (k s) := by
  intro s
  simp only [tableRead, he, hi]
  cases entry s with
  | some v => exact hk v s
  | none => rfl

theorem pictureBlind_exec (i : Instr) : PictureBlind (exec i) := by
  cases i with
  | setColor | clear => exact pictureBlind_afterInit fun s => rfl
  | schedEnable => exact pictureBlind_afterInit fun s => rfl
  | fillSolid | drawMasked => exact pictureBlind_afterInit (pictureBlind_startColored _)
  | drawPixel row col =>
    refine pictureBlind_afterInit fun s => ?_
    simp only [dropPicture_ite, pictureBlind_startColored _ s]
  | drawRowRun row startCol length =>
    refine pictureBlind_afterInit fun s => ?_
    simp only [runInBounds, dropPicture_ite, pictureBlind_startColored _ s]
  | drawColRun col startRow length =>
    refine pictureBlind_afterInit fun s => ?_
    simp only [runInBounds, dropPicture_ite, pictureBlind_startColored _ s]
  | initDisplay =>
    refine pictureBlind_whenFree fun s => ?_
    simp only [dropPicture_ite]
    rfl
  | entry =>
    intro s
    simp only [exec, execEntry, dropPicture_ite]
    rfl
  | tstop | tack | shift | latch | unblank | advance => exact pictureBlind_inPhase fun s => rfl
  | rowsel => exact pictureBlind_inPhase (pictureBlind_tableRead (fun _ => rfl) (fun _ => rfl) fun v s => rfl)
  | treload => exact pictureBlind_inPhase (pictureBlind_tableRead (fun _ => rfl) (fun _ => rfl) fun v s => rfl)

theorem withoutPicture_cellStep (c : InFlight) (row col : Nat) (s : State) :
    withoutPicture (cellStep c row col s) = withoutPicture (cellStep c row col (withoutPicture s)) := by
  rcases cellStep_cases c row col s with ⟨ht, e⟩ | ⟨ht, hch, e⟩ | ⟨ht, hch, e⟩ | ⟨ht, hch, e⟩ <;> rw [e]
  · have hwhole : ¬ (withoutPicture s).cfg.channelTear = true := by simp [withoutPicture, ht]
    rw [cellStep, if_neg hwhole]
    rfl
  all_goals simp [cellStep, withoutPicture, finishCell, ht, hch]

theorem pictureBlind_hostCell (c : InFlight) : PictureBlind (hostCell c) := by
  intro s
  simp only [hostCell, show (withoutPicture s).hIdx = s.hIdx from rfl]
  cases (cellCoords c.cmd)[s.hIdx]? with
  | none => rfl
  | some p => simp only [dropPicture_ite, dropPicture_next, withoutPicture_cellStep c p.1 p.2 s, dropPicture_fault]

theorem pictureBlind_hostIssue : PictureBlind hostIssue := by
  intro s
  simp only [hostIssue, show (withoutPicture s).port = s.port from rfl]
  cases decodeHost s.port with
  | command i rest => exact pictureBlind_exec i { s with port := rest }
  | reserved w => rfl
  | incomplete => rfl

theorem pictureBlind_agentStep (a : Agent) : PictureBlind (agentStep a) := by
  intro s
  cases a with
  | host =>
    simp only [agentStep, hostStep, show (withoutPicture s).hCmd = s.hCmd from rfl]
    cases s.hCmd with
    | some c => exact pictureBlind_hostCell c s
    | none => exact pictureBlind_hostIssue s
  | engine =>
    simp only [agentStep, engineStep, show (withoutPicture s).phase = s.phase from rfl]
    cases decodePhase s.phase with
    | some i => exact pictureBlind_exec i s
    | none => rfl
  | timer => rfl

theorem pictureBlind_step : PictureBlind step := by
  intro s
  simp only [step, show (withoutPicture s).cfg = s.cfg from rfl]
  cases s.cfg.failing with
  | some c => rfl
  | none => exact pictureBlind_agentStep (nextAgent s) (consumeChoice s)

/-- Settles O56. -/
theorem pictureNeverInfluencesControl : Obligations.PictureNeverInfluencesControl := by
  intro s t s' hst hstep
  have hsame : dropPicture (step t) = .next (withoutPicture s') := by
    rw [pictureBlind_step t, ← hst, ← pictureBlind_step s, hstep, dropPicture_next]
  cases ht : step t with
  | next t' =>
    rw [ht] at hsame
    exact ⟨t', rfl, (Host.Outcome.next.inj hsame).symm⟩
  | fault r => simp [ht] at hsame
  | refused r => simp [ht] at hsame

end Sys2Proof.Machine

/-! PROOFS. Brightness over a frame: what each plane adds to the ticks in which an LED is on (spec/41_scanout_engine.md R167). -/

namespace Sys2Proof.Machine

/-! ## The planes of a frame -/

/-- `s` shows plane number `j` of the frame of the configuration and framebuffer of `s₀`. -/
structure Shows (s₀ : State) (j : Nat) (s : State) : Prop where
  blank : s.blank = false
  sel : s₀.cfg.rowSelect (j / s₀.cfg.bitDepth % 16) = some s.sel
  words : s.pLatch = rowWords s₀.fb (j / s₀.cfg.bitDepth % 16) (j % s₀.cfg.bitDepth)

/-- The timer counts the time of the plane on the panel: from `TRELOAD` to the expiry. -/
def counting (s : State) : Bool := !s.tPend && (s.phase == Phase.idle || s.phase == Phase.advance)

theorem counting_iff (s : State) :
    counting s = true ↔ s.tPend = false ∧ (s.phase = Phase.idle ∨ s.phase = Phase.advance) := by
  simp [counting]

/-- `s` stands inside an invocation that the tables let come to its end. -/
def Inside (s : State) : Prop :=
  ∃ s' v n, s'.pSr.length = 32 ∧ s'.cfg.rowSelect s'.rowPair.toNat = some v ∧ s'.cfg.bcm s'.bitPlane.toNat = some n ∧
    Midway s' v n s

/-- `s` stands in a frame, on the configuration and framebuffer of `s₀`, with `k` planes started. -/
structure InFrame (s₀ : State) (k : Nat) (s : State) : Prop where
  same : s.cfg = s₀.cfg ∧ s.fb = s₀.fb
  shown : counting s = true → ∃ j, k = j + 1 ∧ s.tEn = true ∧ 1 ≤ s.tCount ∧ Shows s₀ j s
  inside : s.phase ≠ Phase.idle → Inside s

/-! ## Step by step -/

theorem Inside.of_entry {s : State} (hinv : Inv s) : Inside (takeDisplayInterrupt (consumeChoice s)) := by
  obtain ⟨hwf, -, ⟨-, hplane, -⟩, -, ⟨-, -, -, -, hsr, -⟩, -⟩ := hinv
  obtain ⟨v, hv, -⟩ := rowSelect_some hwf s.rowPair
  obtain ⟨n, hn, -⟩ := bcm_some hwf hplane
  exact ⟨s, v, n, hsr, hv, hn, .start (undisturbed_consumeChoice s) rfl rfl⟩

theorem Inside.of_tick {s : State} (h : Inside s) : Inside (tick (consumeChoice s)) := by
  obtain ⟨s', v, n, hsr, hv, hn, hm⟩ := h
  exact ⟨s', v, n, hsr, hv, hn, hm.of_consumeChoice.of_tick⟩

theorem Inside.of_engine {s t : State} {i : Instr} (h : Inside s) (hwf : s.cfg.Wf) (ha : s.phase ≠ Phase.advance)
    (hd : decodePhase s.phase = some i) (hx : exec i (consumeChoice s) = .next t) : Inside t := by
  obtain ⟨s', v, n, hsr, hv, hn, hm⟩ := h
  have hpos := (bcm_range (hm.kept.cfg ▸ hwf) hn).1
  exact ⟨s', v, n, hsr, hv, hn, hm.of_consumeChoice.engine hsr hv hn hpos ha hd hx⟩

/-- What `TRELOAD` finds on the panel: the cursor's plane. -/
theorem Inside.shows {s₀ s : State} {k : Nat} (h : Inside s) (hp : s.phase = Phase.treload) (hcfg : s.cfg = s₀.cfg)
    (hfb : s.fb = s₀.fb) (hcur : CursorAt s₀.cfg.bitDepth k s) : s.tPend = false ∧ Shows s₀ k s := by
  obtain ⟨s', v, n, -, hv, -, hm⟩ := h
  have hsel : s.sel = v := hm.selected (by simp [hp])
  obtain ⟨hlatch, -⟩ := hm.latched (by simp [hp])
  refine ⟨hm.acknowledged (by simp [hp]), hm.unblanked (by simp [hp]), ?_, ?_⟩
  · rw [hsel, ← hcur.row, ← hcfg, hm.kept.cfg, hm.kept.rowPair, hv]
  · rw [hlatch, cursorWords, ← hcur.row, ← hcur.plane, ← hfb, hm.kept.fb, hm.kept.rowPair, hm.kept.bitPlane]

/-- A tick while the plane's time is counted: one off the count, or the expiry. -/
theorem InFrame.of_tick {s₀ s : State} {k : Nat} (h : InFrame s₀ k s) : InFrame s₀ k (tick (consumeChoice s)) := by
  obtain ⟨hsame, hshown, hinside⟩ := h
  refine ⟨hsame, fun hc => ?_, fun hp => (hinside hp).of_tick⟩
  obtain ⟨hpd, hp⟩ := (counting_iff _).mp hc
  obtain ⟨hexp, hpd0⟩ : expires (consumeChoice s) = false ∧ s.tPend = false := by simpa using hpd
  obtain ⟨j, hk, he, h1, hb, hsel, hw⟩ := hshown ((counting_iff s).mpr ⟨hpd0, hp⟩)
  have h2 : ¬ s.tCount ≤ 1 := fun hle => by simp [expires, he, hle] at hexp
  refine ⟨j, hk, he, ?_, hb, hsel, hw⟩
  rw [tick_of_counting (s := consumeChoice s) he (Nat.lt_of_not_le h2)]
  simp only [consumeChoice_tCount]
  omega

/-- Between its entry and `TRELOAD` an engine step does not reach the phases in which a plane's time is counted. -/
theorem engine_phase_between {s t : State} {i : Instr} (hd : decodePhase s.phase = some i) (hx : exec i s = .next t)
    (hre : s.phase ≠ Phase.treload) (had : s.phase ≠ Phase.advance) : t.phase ≠ Phase.idle ∧ t.phase ≠ Phase.advance := by
  rcases engine_cases hd hx with ⟨-, -, -, rfl⟩ | ⟨-, rfl⟩ | ⟨-, rfl⟩ | ⟨-, v, -, rfl⟩ | ⟨-, rfl⟩ | ⟨-, rfl⟩ | ⟨-, rfl⟩ |
    ⟨hp, -⟩ | ⟨hp, -⟩
  case inr.inr.inr.inr.inl => cases lastColumn s <;> simp
  case inr.inr.inr.inr.inr.inr.inr.inl => exact absurd hp hre
  case inr.inr.inr.inr.inr.inr.inr.inr => exact absurd hp had
  all_goals simp

theorem InFrame.of_engine {s₀ s t : State} {k : Nat} {i : Instr} (h : InFrame s₀ k s) (hinv : Inv s)
    (ha : nextAgent s = .engine) (hsame : t.cfg = s₀.cfg ∧ t.fb = s₀.fb)
    (hcur : s.phase = Phase.treload → CursorAt s₀.cfg.bitDepth k s) (hd : decodePhase s.phase = some i)
    (hx : exec i (consumeChoice s) = .next t) : InFrame s₀ (k + engineStepIn Phase.treload s) t := by
  obtain ⟨⟨hcfg, hfb⟩, hshown, hinside⟩ := h
  have hwf : s.cfg.Wf := hinv.1
  by_cases hre : s.phase = Phase.treload
  · have hin := hinside (by simp [hre])
    obtain ⟨hpd, hb, hsel, hw⟩ := hin.shows hre hcfg hfb (hcur hre)
    rw [engineStepIn, if_pos ⟨ha, hre⟩]
    refine ⟨hsame, fun _ => ⟨k, rfl, ?_⟩, fun _ => hin.of_engine hwf (by simp [hre]) hd hx⟩
    rw [hre] at hd
    obtain rfl : i = .treload := by simpa [decodePhase, phaseRows, eq_comm] using hd
    obtain ⟨-, v, hv, rfl⟩ := execTreload_next hx
    exact ⟨rfl, (bcm_range (c := s.cfg) hwf hv).1, hb, hsel, hw⟩
  rw [engineStepIn, if_neg fun hs => hre hs.2, Nat.add_zero]
  by_cases had : s.phase = Phase.advance
  · rw [had] at hd
    obtain rfl : i = .advance := by simpa [decodePhase, phaseRows, eq_comm] using hd
    obtain ⟨-, rfl⟩ := execAdvance_next hx
    refine ⟨hsame, fun hc => ?_, fun hp => absurd rfl hp⟩
    obtain ⟨hpd, -⟩ := (counting_iff _).mp hc
    obtain ⟨j, hk, he, h1, hb, hsel, hw⟩ := hshown ((counting_iff s).mpr ⟨hpd, .inr had⟩)
    exact ⟨j, hk, he, h1, hb, hsel, hw⟩
  · obtain ⟨hidle', hadv'⟩ := engine_phase_between (s := consumeChoice s) hd hx hre had
    refine ⟨hsame, fun hc => ?_, fun _ => ?_⟩
    · obtain ⟨-, hp | hp⟩ := (counting_iff _).mp hc
      · exact absurd hp hidle'
      · exact absurd hp hadv'
    · by_cases hp : s.phase = Phase.idle
      · rw [hp] at hd
        obtain rfl : i = .entry := by simpa [decodePhase, phaseRows, eq_comm] using hd
        obtain ⟨-, rfl⟩ := execEntry_next hx
        exact .of_entry hinv
      · exact (hinside hp).of_engine hwf had hd hx

/-- A step starts a plane when it is `TRELOAD`, and every step keeps what a frame needs. -/
theorem InFrame.of_step {s₀ s t : State} {k : Nat} (h : InFrame s₀ k s) (hinv : Inv s) (hi : s.initDone = true)
    (hfb : t.fb = s₀.fb) (hcur : s.phase = Phase.treload → CursorAt s₀.cfg.bitDepth k s) (hstep : step s = .next t) :
    InFrame s₀ (k + engineStepIn Phase.treload s) t := by
  have hcfg : t.cfg = s₀.cfg := (noStepUndoesSetUp _ _ hstep).1.trans h.same.1
  rcases step_agent_cases hstep with ⟨ha, rfl⟩ | ⟨ha, i, hd, hx⟩ | ⟨ha, hh⟩
  · rw [engineStepIn_of_ne (by simp [ha])]
    exact h.of_tick
  · exact h.of_engine hinv ha ⟨hcfg, hfb⟩ hcur hd hx
  · rw [engineStepIn_of_ne (by simp [ha])]
    obtain ⟨-, -, ⟨hsel, hblank, -⟩, ⟨-, hcnt, hpd⟩, hen⟩ := hh.kept hi
    refine ⟨⟨hcfg, hfb⟩, fun hc => ?_, fun hp => absurd hh.phase.2 hp⟩
    obtain ⟨hpd', -⟩ := (counting_iff _).mp hc
    obtain ⟨j, hk, he, h1, hb, hs, hw⟩ := h.shown ((counting_iff s).mpr ⟨hpd ▸ hpd', .inl hh.phase.1⟩)
    exact ⟨j, hk, hen he, hcnt ▸ h1, hblank.trans hb, hsel ▸ hs, hh.panel.2.1.trans hw⟩

/-! ## Along a run -/

/-- 1 between `TRELOAD` and `ADVANCE`. -/
def startedIn (s : State) : Nat := if s.phase = Phase.advance then 1 else 0

/-- Each plane started is advanced over. -/
theorem started_balanced {s t : State} (h : step s = .next t) :
    engineStepIn Phase.treload s + startedIn s = engineStepIn Phase.advance s + startedIn t := by
  rcases step_agent_cases h with ⟨ha, rfl⟩ | ⟨ha, i, hd, hx⟩ | ⟨ha, hh⟩
  · rw [engineStepIn_of_ne (by simp [ha]), engineStepIn_of_ne (by simp [ha])]
    rfl
  · rcases engine_cases (s := consumeChoice s) hd hx with ⟨hp, -, -, rfl⟩ | ⟨hp, rfl⟩ | ⟨hp, rfl⟩ | ⟨hp, v, -, rfl⟩ |
      ⟨hp, rfl⟩ | ⟨hp, rfl⟩ | ⟨hp, rfl⟩ | ⟨hp, v, -, rfl⟩ | ⟨hp, rfl⟩ <;> rw [consumeChoice_phase] at hp
    case inr.inr.inr.inr.inl => cases lastColumn (consumeChoice s) <;> simp [engineStepIn, startedIn, hp, ha]
    all_goals simp [engineStepIn, startedIn, hp, ha]
  · simp [engineStepIn_of_ne, ha, startedIn, hh.phase]

/-- The hypotheses about a frame's run: it begins at a pending `ENTRY` of cursor (0,0), and nothing writes the framebuffer. -/
structure FrameRun (σ : Nat → State) (n : Nat) : Prop where
  run : RunUpTo σ n
  inv : Inv (σ 0)
  entry : entryEnabled (σ 0) = true
  cursor : (σ 0).rowPair = 0 ∧ (σ 0).bitPlane = 0
  still : ∀ m, m ≤ n → (σ m).fb = (σ 0).fb

section Run

variable {σ : Nat → State} {n : Nat} (h : FrameRun σ n)
include h

theorem FrameRun.started_eq (m : Nat) (hm : m ≤ n) :
    engineSteps Phase.treload σ m = engineSteps Phase.advance σ m + startedIn (σ m) := by
  obtain ⟨hp, -⟩ := (entryEnabled_iff _).mp h.entry
  refine h.run.induct (P := fun m => engineSteps Phase.treload σ m = engineSteps Phase.advance σ m + startedIn (σ m))
    (by simp [startedIn, hp]) (fun m _ ih hstep => ?_) m hm
  have hb := started_balanced hstep
  rw [engineSteps_succ_eq, engineSteps_succ_eq]
  omega

/-- At `TRELOAD` the cursor is at the plane about to be started. -/
theorem FrameRun.cursorAt_treload {m : Nat} (hm : m ≤ n) (hp : (σ m).phase = Phase.treload) :
    CursorAt (σ 0).cfg.bitDepth (engineSteps Phase.treload σ m) (σ m) := by
  obtain ⟨-, -, hi⟩ := (entryEnabled_iff _).mp h.entry
  obtain ⟨-, -, hcur⟩ := h.run.cursorAt hi h.cursor.1 h.cursor.2 m hm
  have hstarted := h.started_eq m hm
  simp only [startedIn, hp] at hstarted
  rwa [hstarted]

theorem FrameRun.initDone {m : Nat} (hm : m ≤ n) : (σ m).initDone = true := by
  obtain ⟨-, -, hi⟩ := (entryEnabled_iff _).mp h.entry
  exact (h.run.cursorAt hi h.cursor.1 h.cursor.2 m hm).2.1

theorem FrameRun.inFrame (m : Nat) (hm : m ≤ n) : InFrame (σ 0) (engineSteps Phase.treload σ m) (σ m) := by
  obtain ⟨hp, hpd, -⟩ := (entryEnabled_iff _).mp h.entry
  refine h.run.induct (P := fun m => InFrame (σ 0) (engineSteps Phase.treload σ m) (σ m)) ?_ (fun m hm ih hstep => ?_) m hm
  · exact ⟨⟨rfl, rfl⟩, fun hc => by simp [counting_iff, hpd] at hc, fun hne => absurd hp hne⟩
  · rw [engineSteps_succ_eq]
    exact ih.of_step (h.run.inv h.inv m hm.le) (h.initDone hm.le) (h.still (m + 1) hm) (h.cursorAt_treload hm.le) hstep

end Run

/-! ## The account of the ticks -/

/-- The duration of plane `k`, cyclically. -/
def durationOf (c : Config) (k : Nat) : Nat := (c.bcm (k % c.bitDepth)).getD 0

/-- The durations of the first `k` planes, those that `p` picks, added up. -/
def dueTicks (c : Config) (p : Nat → Bool) (k : Nat) : Nat := ∑ j ∈ Finset.range k, if p j then durationOf c j else 0

/-- What is left of the duration of the plane started last, of `k`, if `p` picks it. -/
def owedTicks (p : Nat → Bool) (k : Nat) (s : State) : Nat := if counting s = true ∧ p (k - 1) = true then s.tCount else 0

theorem owedTicks_of_not_counting {s : State} (h : counting s = false) (p : Nat → Bool) (k : Nat) : owedTicks p k s = 0 := by
  simp [owedTicks, h]

theorem owedTicks_of_counting {s : State} (h : counting s = true) (p : Nat → Bool) (j : Nat) :
    owedTicks p (j + 1) s = if p j then s.tCount else 0 := by
  simp [owedTicks, h]

theorem owedTicks_congr {s t : State} (h : counting t = counting s) (hc : t.tCount = s.tCount) (p : Nat → Bool) (k : Nat) :
    owedTicks p k t = owedTicks p k s := by
  rw [owedTicks, owedTicks, h, hc]

theorem dueTicks_succ (c : Config) (p : Nat → Bool) (k : Nat) :
    dueTicks c p (k + 1) = dueTicks c p k + if p k then durationOf c k else 0 := Finset.sum_range_succ _ _

theorem counting_of_pending {s : State} (h : s.tPend = true) : counting s = false := by simp [counting, h]

theorem counting_of_phase {s : State} (hi : s.phase ≠ Phase.idle) (ha : s.phase ≠ Phase.advance) : counting s = false := by
  rw [← Bool.not_eq_true, counting_iff]
  exact fun hc => hc.2.elim hi ha

/-- A tick while a plane's time is counted takes one off what is owed. -/
theorem owedTicks_tick {s : State} {j : Nat} (hc : counting s = true) (he : s.tEn = true) (h1 : 1 ≤ s.tCount)
    (p : Nat → Bool) : owedTicks p (j + 1) s = owedTicks p (j + 1) (tick (consumeChoice s)) + if p j then 1 else 0 := by
  obtain ⟨hpd, hp⟩ := (counting_iff s).mp hc
  rw [owedTicks_of_counting hc]
  by_cases hlast : s.tCount ≤ 1
  · rw [tick_of_expires (s := consumeChoice s) he hlast, owedTicks_of_not_counting (counting_of_pending rfl), Nat.zero_add,
      Nat.le_antisymm hlast h1]
  · have htick := tick_of_counting (s := consumeChoice s) he (Nat.lt_of_not_le hlast)
    have hc' : counting (tick (consumeChoice s)) = true := by
      rw [htick]
      exact (counting_iff _).mpr ⟨hpd, hp⟩
    rw [owedTicks_of_counting hc', htick]
    split <;> simp
    omega

/-- A tick while no plane's time is counted owes nothing before or after. -/
theorem counting_tick {s : State} (h : counting s = false) : counting (tick (consumeChoice s)) = false := by
  simp only [counting, Bool.and_eq_false_iff] at h ⊢
  rcases h with h | h
  · exact .inl (by simp at h; simp [h])
  · exact .inr h

/-- An engine step pays nothing: `TRELOAD` owes what it starts. -/
theorem due_of_engine {s₀ s t : State} {k : Nat} {i : Instr} (h : InFrame s₀ k s) (ha : nextAgent s = .engine)
    (hcur : s.phase = Phase.treload → CursorAt s₀.cfg.bitDepth k s) (hd : decodePhase s.phase = some i)
    (hx : exec i (consumeChoice s) = .next t) (p : Nat → Bool) :
    dueTicks s₀.cfg p (k + engineStepIn Phase.treload s) + owedTicks p k s =
      dueTicks s₀.cfg p k + owedTicks p (k + engineStepIn Phase.treload s) t := by
  by_cases hre : s.phase = Phase.treload
  · have hdark : counting s = false := counting_of_phase (by simp [hre]) (by simp [hre])
    have hpd := (h.inside (by simp [hre])).shows hre h.same.1 h.same.2 (hcur hre) |>.1
    have hplane := (hcur hre).plane
    rw [engineStepIn, if_pos ⟨ha, hre⟩, dueTicks_succ, owedTicks_of_not_counting hdark, Nat.add_zero]
    rw [hre] at hd
    obtain rfl : i = .treload := by simpa [decodePhase, phaseRows, eq_comm] using hd
    obtain ⟨-, v, hv, ht⟩ := execTreload_next hx
    have hc' : counting t = true := by
      rw [ht]
      exact (counting_iff _).mpr ⟨hpd, .inr rfl⟩
    have hv' : durationOf s₀.cfg k = v := by
      rw [durationOf, ← hplane, ← h.same.1]
      exact congrArg (Option.getD · 0) hv
    rw [owedTicks_of_counting hc', hv', ht]
    rfl
  rw [engineStepIn, if_neg fun hs => hre hs.2, Nat.add_zero]
  by_cases had : s.phase = Phase.advance
  · rw [had] at hd
    obtain rfl : i = .advance := by simpa [decodePhase, phaseRows, eq_comm] using hd
    obtain ⟨-, rfl⟩ := execAdvance_next hx
    have hcount : counting (returnToHost (advanceCursor (consumeChoice s))) = counting s := by simp [counting, had]
    rw [owedTicks_congr hcount rfl]
  · obtain ⟨hidle', hadv'⟩ := engine_phase_between (s := consumeChoice s) hd hx hre had
    have hdark : counting s = false := by
      by_cases hp : s.phase = Phase.idle
      · rw [hp] at hd
        obtain rfl : i = .entry := by simpa [decodePhase, phaseRows, eq_comm] using hd
        obtain ⟨hen, -⟩ := execEntry_next hx
        obtain ⟨-, hpd, -⟩ := (entryEnabled_iff _).mp hen
        exact counting_of_pending hpd
      · exact counting_of_phase hp had
    rw [owedTicks_of_not_counting hdark, owedTicks_of_not_counting (counting_of_phase hidle' hadv')]

/-- The step from `s` to `t` of a run with `k` planes started: a counted tick pays what it takes off the count; one in a state in
which no plane's time is counted may pay too much. -/
theorem due_of_step {s₀ s t : State} {k : Nat} {p : Nat → Bool} {q : State → Bool} (h : InFrame s₀ k s) (hi : s.initDone = true)
    (hcur : s.phase = Phase.treload → CursorAt s₀.cfg.bitDepth k s) (hstep : step s = .next t)
    (hq : q s = true → nextAgent s = .timer)
    (hqp : ∀ j, nextAgent s = .timer → Shows s₀ j s → q s = p j) :
    ∃ extra, dueTicks s₀.cfg p (k + engineStepIn Phase.treload s) + owedTicks p k s + extra =
        dueTicks s₀.cfg p k + owedTicks p (k + engineStepIn Phase.treload s) t + (if q s then 1 else 0) ∧
      ((nextAgent s = .timer → counting s = true) → extra = 0) := by
  rcases step_agent_cases hstep with ⟨ha, rfl⟩ | ⟨ha, i, hd, hx⟩ | ⟨ha, hh⟩
  · rw [engineStepIn_of_ne (by simp [ha]), Nat.add_zero]
    by_cases hc : counting s = true
    · obtain ⟨j, rfl, he, h1, hs⟩ := h.shown hc
      refine ⟨0, ?_, fun _ => rfl⟩
      rw [owedTicks_tick hc he h1, hqp j ha hs]
      ac_rfl
    · have hc' : counting s = false := by simpa using hc
      refine ⟨if q s then 1 else 0, ?_, fun hcount => absurd (hcount ha) hc⟩
      rw [owedTicks_of_not_counting hc', owedTicks_of_not_counting (counting_tick hc')]
  · have hquiet : q s = false := by simpa [ha] using mt hq
    exact ⟨0, by simpa [hquiet] using due_of_engine h ha hcur hd hx p, fun _ => rfl⟩
  · have hquiet : q s = false := by simpa [ha] using mt hq
    obtain ⟨-, -, -, ⟨-, hcnt, hpd⟩, -⟩ := hh.kept hi
    have hcount : counting t = counting s := by simp [counting, hpd, hh.phase]
    rw [engineStepIn_of_ne (by simp [ha]), Nat.add_zero, owedTicks_congr hcount hcnt]
    exact ⟨0, by simp [hquiet], fun _ => rfl⟩

/-- The account of a frame's run: the ticks counted cover the durations due, and with no overhead they are those. -/
theorem FrameRun.due {σ : Nat → State} {n : Nat} (h : FrameRun σ n) {p : Nat → Bool} {q : State → Bool}
    (hq : ∀ s, q s = true → nextAgent s = .timer)
    (hqp : ∀ s j, nextAgent s = .timer → Shows (σ 0) j s → q s = p j) (m : Nat) (hm : m ≤ n) :
    ∃ extra, dueTicks (σ 0).cfg p (engineSteps Phase.treload σ m) + extra =
        stepCount q σ m + owedTicks p (engineSteps Phase.treload σ m) (σ m) ∧
      (NoOverhead σ n → extra = 0) := by
  obtain ⟨-, hpd, -⟩ := (entryEnabled_iff _).mp h.entry
  refine h.run.induct (P := fun m => ∃ extra, dueTicks (σ 0).cfg p (engineSteps Phase.treload σ m) + extra =
    stepCount q σ m + owedTicks p (engineSteps Phase.treload σ m) (σ m) ∧ (NoOverhead σ n → extra = 0)) ?_ ?_ m hm
  · exact ⟨0, by simp [dueTicks, owedTicks_of_not_counting (counting_of_pending hpd)], fun _ => rfl⟩
  · intro m hm ⟨extra, hdue, hnone⟩ hstep
    obtain ⟨more, hmore, hnone'⟩ := due_of_step (h.inFrame m hm.le) (h.initDone hm.le) (h.cursorAt_treload hm.le) hstep (hq _)
      (fun j => hqp _ j)
    rw [stepCount_succ, engineSteps_succ_eq]
    refine ⟨extra + more, by omega, fun hno => ?_⟩
    have hcount : nextAgent (σ m) = .timer → counting (σ m) = true := fun ha => by
      obtain ⟨hp, hpd⟩ := hno m hm ha
      exact (counting_iff _).mpr ⟨hpd, .inl hp⟩
    rw [hnone hno, hnone' hcount]

/-- At the pending `ENTRY` after a whole frame every plane has been started, and none is owed. -/
theorem FrameRun.due_frame {σ : Nat → State} {n : Nat} (h : FrameRun σ n) (hend : entryEnabled (σ n) = true)
    (hframe : engineSteps Phase.idle σ n = 16 * (σ 0).cfg.bitDepth) {p : Nat → Bool} {q : State → Bool}
    (hq : ∀ s, q s = true → nextAgent s = .timer)
    (hqp : ∀ s j, nextAgent s = .timer → Shows (σ 0) j s → q s = p j) :
    dueTicks (σ 0).cfg p (16 * (σ 0).cfg.bitDepth) ≤ stepCount q σ n ∧
      (NoOverhead σ n → stepCount q σ n = dueTicks (σ 0).cfg p (16 * (σ 0).cfg.bitDepth)) := by
  obtain ⟨hp, hpd, -⟩ := (entryEnabled_iff _).mp hend
  obtain ⟨hent, hack, -⟩ := h.run.accounts (.of_inv h.inv) ((entryEnabled_iff _).mp h.entry).1
  have hstarted := h.started_eq n le_rfl
  obtain ⟨extra, hdue, hnone⟩ := h.due hq hqp n le_rfl
  have hin : enteredIn (σ n) = 0 ∧ ackedIn (σ n) = 0 ∧ startedIn (σ n) = 0 := by simp [enteredIn, ackedIn, startedIn, hp]
  have hall : engineSteps Phase.treload σ n = 16 * (σ 0).cfg.bitDepth := by omega
  rw [hall, owedTicks_of_not_counting (counting_of_pending hpd), Nat.add_zero] at hdue
  exact ⟨hdue ▸ Nat.le_add_right _ _, fun hno => by rw [← hdue, hnone hno, Nat.add_zero]⟩

/-! ## The sums -/

/-- The planes of a frame, row-pair by row-pair. -/
theorem sum_range_frame (b : Nat) (hb : 0 < b) (f : Nat → Nat → Nat) (r : Nat) :
    ∑ j ∈ Finset.range (r * b), f (j / b) (j % b) = ∑ i ∈ Finset.range r, ∑ k ∈ Finset.range b, f i k := by
  induction r with
  | zero => simp
  | succ r ih =>
    rw [Nat.succ_mul, Finset.sum_range_add, ih, Finset.sum_range_succ]
    refine congrArg _ (Finset.sum_congr rfl fun k hk => ?_)
    have hlt : k < b := Finset.mem_range.mp hk
    rw [Nat.mul_comm r b, Nat.mul_add_div hb, Nat.mul_add_mod, Nat.div_eq_of_lt hlt, Nat.mod_eq_of_lt hlt, Nat.add_zero]

theorem sum_two_pow_of_bits (x b : Nat) : ∑ k ∈ Finset.range b, (if x.testBit k then 2 ^ k else 0) = x % 2 ^ b := by
  induction b with
  | zero => simp [Nat.mod_one]
  | succ b ih =>
    rw [Finset.sum_range_succ, ih, Nat.mod_pow_succ, ← Nat.toNat_testBit]
    cases x.testBit b <;> simp

theorem weightOf_eq_sum (c : Config) (v : Byte) :
    weightOf c v = ∑ k ∈ Finset.range c.bitDepth, if v.getLsbD k then (c.bcm k).getD 0 else 0 := rfl

/-- The planes of one row-pair alone: their durations once. -/
theorem dueTicks_pair {c : Config} (hwf : c.Wf) {p : Nat} (hp : p < 16) (v : Byte) :
    dueTicks c (fun j => decide (p = j / c.bitDepth % 16) && v.getLsbD (j % c.bitDepth)) (16 * c.bitDepth) = weightOf c v := by
  obtain ⟨⟨hpos, -⟩, -⟩ := wf_clauses hwf
  have hpair : ∀ i ∈ Finset.range 16,
      (∑ k ∈ Finset.range c.bitDepth, if decide (p = i % 16) && v.getLsbD k then (c.bcm k).getD 0 else 0) =
        if p = i then weightOf c v else 0 := by
    intro i hi
    rw [Nat.mod_eq_of_lt (Finset.mem_range.mp hi), weightOf_eq_sum]
    by_cases hpi : p = i <;> simp [hpi]
  calc dueTicks c _ (16 * c.bitDepth)
      = ∑ i ∈ Finset.range 16, ∑ k ∈ Finset.range c.bitDepth,
          if decide (p = i % 16) && v.getLsbD k then (c.bcm k).getD 0 else 0 :=
        sum_range_frame c.bitDepth hpos
          (fun i k => if decide (p = i % 16) && v.getLsbD k then (c.bcm k).getD 0 else 0) 16
    _ = ∑ i ∈ Finset.range 16, if p = i then weightOf c v else 0 := Finset.sum_congr rfl hpair
    _ = weightOf c v := by simp [hp]

/-- All planes: the durations of each row-pair. -/
theorem dueTicks_all {c : Config} (hwf : c.Wf) :
    dueTicks c (fun _ => true) (16 * c.bitDepth) = 16 * ∑ k ∈ Finset.range c.bitDepth, (c.bcm k).getD 0 := by
  obtain ⟨⟨hpos, -⟩, -⟩ := wf_clauses hwf
  refine (sum_range_frame c.bitDepth hpos (fun _ k => (c.bcm k).getD 0) 16).trans ?_
  simp

/-! ## The default table (R6) -/

theorem bcm_of_defaultTable {c : Config} {base k : Nat} (h : c.bcmTable = Config.defaultTable base c.bitDepth)
    (hk : k < c.bitDepth) : (c.bcm k).getD 0 = base * 2 ^ k := by
  simp [Config.bcm, h, Config.defaultTable, hk]

theorem weightOf_defaultTable {c : Config} {base : Nat} (h : c.bcmTable = Config.defaultTable base c.bitDepth) (v : Byte) :
    weightOf c v = base * (v.toNat % 2 ^ c.bitDepth) := by
  rw [weightOf_eq_sum, ← sum_two_pow_of_bits, Finset.mul_sum]
  refine Finset.sum_congr rfl fun k hk => ?_
  rw [bcm_of_defaultTable h (Finset.mem_range.mp hk), BitVec.testBit_toNat]
  split <;> rfl

theorem sum_bcm_defaultTable {c : Config} {base : Nat} (h : c.bcmTable = Config.defaultTable base c.bitDepth) :
    ∑ k ∈ Finset.range c.bitDepth, (c.bcm k).getD 0 = base * (2 ^ c.bitDepth - 1) := by
  rw [Finset.sum_congr rfl fun k hk => bcm_of_defaultTable h (Finset.mem_range.mp hk), ← Finset.mul_sum,
    Nat.geomSum_eq le_rfl]
  simp

/-! ## Brightness -/

/-- The ticks of a run are its steps of the timer. -/
theorem RunUpTo.tickCount_eq {σ : Nat → State} {n : Nat} (h : RunUpTo σ n) :
    tickCount (σ n).trace = tickCount (σ 0).trace + stepCount (fun s => nextAgent s == .timer) σ n := by
  refine h.induct (P := fun m => tickCount (σ m).trace =
    tickCount (σ 0).trace + stepCount (fun s => nextAgent s == .timer) σ m) rfl (fun m _ ih hstep => ?_) n le_rfl
  rw [tickCount_of_step hstep, ih, stepCount_succ, Nat.add_assoc]
  simp

/-- The plane on the panel lights an LED when it is one of the LED's row-pair in which the LED's channel has a 1 bit. -/
theorem Shows.lit_eq {s₀ s : State} {j : Nat} (h : Shows s₀ j s) (hnd : s₀.cfg.rowSelectMap.Nodup) {row col : Nat}
    (hr : row < 32) (hc : col < 32) (ch : Channel) :
    lit s₀.cfg.rowSelectMap s row col ch =
      (decide (row % 16 = j / s₀.cfg.bitDepth % 16) &&
        (channelOf (readCell s₀.fb row col) ch).getLsbD (j % s₀.cfg.bitDepth)) :=
  lit_of_rowWords_of_nodup hnd h.blank h.sel h.words hr hc ch

/-- Settles O59: each started plane is on the panel for its duration's ticks, and only the planes of the LED's row-pair with a
1 bit in its channel light it. -/
theorem brightnessIsProportionalToIntensity : Obligations.BrightnessIsProportionalToIntensity := by
  intro σ n row col ch hrun hinv hentry hr0 hb0 hstill hend hframe hnd hr hc v on
  have h : FrameRun σ n := ⟨hrun, hinv, hentry, ⟨hr0, hb0⟩, hstill⟩
  have hwf : (σ 0).cfg.Wf := hinv.1
  obtain ⟨hle, heq⟩ := h.due_frame hend hframe
    (p := fun j => decide (row % 16 = j / (σ 0).cfg.bitDepth % 16) && v.getLsbD (j % (σ 0).cfg.bitDepth))
    (q := fun s => nextAgent s == .timer && lit (σ 0).cfg.rowSelectMap s row col ch)
    (fun s hs => by simp at hs; exact hs.1) (fun s j ha hs => by simp [ha, hs.lit_eq hnd hr hc, v])
  rw [dueTicks_pair hwf (Nat.mod_lt _ (by decide))] at hle heq
  refine ⟨hle, heq, fun hno base htable => ⟨(heq hno).trans (weightOf_defaultTable htable v), ?_⟩⟩
  obtain ⟨-, hticks⟩ := h.due_frame hend hframe (p := fun _ => true) (q := fun s => nextAgent s == .timer)
    (fun s hs => by simpa using hs) (fun s j ha _ => by simp [ha])
  rw [hrun.tickCount_eq, hticks hno, dueTicks_all hwf, sum_bcm_defaultTable htable]

end Sys2Proof.Machine
